-- ==== Sys2Proof/Word.lean ====
section
/-! DEFINITION. The byte and the header word (00_scope.md R11, R12). -/

namespace Sys2Proof

/-- A byte: an unsigned 8-bit value (R11). -/
abbrev Byte := BitVec 8

/-- A 32-bit header word (R12, R60). -/
abbrev Word := BitVec 32

/-- A byte sequence, index 0 first in the stream (R11). -/
abbrev Bytes := List Byte

end Sys2Proof
end

