-- ==== Sys2Proof/Config.lean ====
section
/-! DEFINITION. The implementation parameters (00_scope.md R6, R8).

The spec leaves five points OPEN (92_eei_decisions.md D6, D8, D11, D15, D19) and names a parameter for each.
They are held together in `Params`, which `State` carries as a constant: no step writes it, and a claim
quantified over states holds under every setting (log entry 1, DESIGN CHOICE). -/

namespace Sys2Proof

/-- `HEADER_SIZE`, in bytes: fixed, not a parameter (R6). -/
def headerSize : Nat := 4

/-- `P_LSF_L3_COEFF`: the slot coefficient of MPEG2 Layer III, 72 or 144 (R8, D8). -/
inductive LsfCoeff where
  | c72
  | c144
deriving DecidableEq, Repr

/-- `P_GUARD_MODE`: what the guard does when one byte follows a complete frame (R8, D11). -/
inductive GuardMode where
  | sync11
  | waitShort
deriving DecidableEq, Repr

/-- The parameters of R8, but for `resync_enabled`, which CREATE writes and which is state (R23). -/
structure Params where
  /-- `P_CRC_ENABLED_BIT`: the wire value of header bit 16 that means CRC enabled (D6). -/
  crcEnabledBit : BitVec 1
  /-- `P_LSF_L3_COEFF` (D8). -/
  lsfL3Coeff : LsfCoeff
  /-- `P_GUARD_MODE` (D11). -/
  guardMode : GuardMode
  /-- `P_FATAL_KEEPS_PRIOR`: whether events before a Fatal are delivered (D15). -/
  fatalKeepsPrior : Bool
  /-- `P_BUF_CAP`: the buffer capacity in bytes, or none for unbounded (D19). -/
  bufCap : Option Nat
deriving DecidableEq, Repr

/-- The defaults of R8. -/
def Params.default : Params where
  crcEnabledBit := 0
  lsfL3Coeff := .c72
  guardMode := .sync11
  fatalKeepsPrior := true
  bufCap := none

end Sys2Proof
end

