-- ==== Sys2Proof/Syntax.lean ====
section
/-! DEFINITION. The instructions: the ten HDR32 rows and the four CMD rows of spec/opcode_table.json
(30_encoding.md R79, R84), and the encoded form in which each reaches the block.

Every field has the width of R61 as its type, so a term of `Instr` is well formed by construction. What can be
ill formed is an encoded transaction: see WellFormed.lean. -/

namespace Sys2Proof

/-- The raw codes of a header word below its version and layer codes, bits 16 down to 0 (30_encoding.md R61). -/
structure HdrFields where
  protBit : BitVec 1
  brIndex : BitVec 4
  srIndex : BitVec 2
  padBit : BitVec 1
  privBit : BitVec 1
  modeCode : BitVec 2
  modeextCode : BitVec 2
  copyBit : BitVec 1
  origBit : BitVec 1
  emphCode : BitVec 2
deriving DecidableEq, Repr

/-- One constructor per row of the opcode table. -/
inductive Instr where
  /-- HDR_MPEG1_L1: ver_code 11, layer_code 11. -/
  | hdrMpeg1L1 (f : HdrFields)
  /-- HDR_MPEG1_L2: ver_code 11, layer_code 10. -/
  | hdrMpeg1L2 (f : HdrFields)
  /-- HDR_MPEG1_L3: ver_code 11, layer_code 01. -/
  | hdrMpeg1L3 (f : HdrFields)
  /-- HDR_MPEG2_L1: ver_code 10, layer_code 11. -/
  | hdrMpeg2L1 (f : HdrFields)
  /-- HDR_MPEG2_L2: ver_code 10, layer_code 10. -/
  | hdrMpeg2L2 (f : HdrFields)
  /-- HDR_MPEG2_L3: ver_code 10, layer_code 01. -/
  | hdrMpeg2L3 (f : HdrFields)
  /-- HDR_INVALID_VER00: ver_code 00, any layer_code. -/
  | hdrInvalidVer00 (layerCode : BitVec 2) (f : HdrFields)
  /-- HDR_INVALID_VER01: ver_code 01, any layer_code. -/
  | hdrInvalidVer01 (layerCode : BitVec 2) (f : HdrFields)
  /-- HDR_INVALID_MPEG1_LAYER00: ver_code 11, layer_code 00. -/
  | hdrInvalidMpeg1Layer00 (f : HdrFields)
  /-- HDR_INVALID_MPEG2_LAYER00: ver_code 10, layer_code 00. -/
  | hdrInvalidMpeg2Layer00 (f : HdrFields)
  /-- CREATE r, opcode 0x01. -/
  | create (r : Bool)
  /-- DEMAND n, opcode 0x02. -/
  | demand (n : Nat)
  /-- DELIVER chunk, opcode 0x03. -/
  | deliver (chunk : Bytes)
  /-- DECODE w, opcode 0x04. -/
  | decode (w : Word)
deriving DecidableEq, Repr

/-- The operands that accompany an opcode (R79). One lane per operand type; the opcode says which lane is
read, and the others are not looked at (log entry 7, DESIGN CHOICE: the spec gives operand types, no layout). -/
structure Operands where
  /-- CREATE's `r`, 1 bit. -/
  r : Bool
  /-- DEMAND's `n`, a natural number. -/
  n : Nat
  /-- DELIVER's `chunk`, a byte sequence. -/
  chunk : Bytes
  /-- DECODE's `w`, 32 bits. -/
  w : Word
deriving DecidableEq, Repr

/-- Every lane zero. -/
def Operands.zero : Operands where
  r := false
  n := 0
  chunk := []
  w := 0

/-- What the host can present to the block: one header in stream order (format HDR32, R60), or one command
tuple (format CMD, R79). A header by itself is the opcode table's own unit (log entry 6, DESIGN CHOICE). -/
inductive Transaction where
  | header (b0 b1 b2 b3 : Byte)
  | command (opcode : Byte) (ops : Operands)
deriving DecidableEq, Repr

end Sys2Proof
end

