-- ==== Sys2Proof/WellFormed.lean ====
section
/-! DEFINITION. Well-formed transactions. An `Instr` needs no check: its fields are bit vectors of the widths of
30_encoding.md R61. A transaction is well formed if it is the canonical encoding of an instruction: a header
carries the sync pattern (R62), and a command has an opcode of R79 and nothing in the lanes its opcode does not
read (log entry 7). -/

namespace Sys2Proof

/-- R62: `b0 = 0xFF` and `(b1 & 0xE0) = 0xE0`. -/
def syncBytesOk (b0 b1 : Byte) : Bool :=
  b0 == 0xFF && (b1 &&& 0xE0) == 0xE0

/-- R79: the four opcodes. -/
def opcodeKnown (op : Byte) : Bool :=
  op == 0x01 || op == 0x02 || op == 0x03 || op == 0x04

/-- The lanes that the opcode does not read are zero. -/
def Operands.unreadLanesZero (op : Byte) (o : Operands) : Bool :=
  (op == 0x01 || o.r == false) && (op == 0x02 || o.n == 0) &&
    (op == 0x03 || o.chunk == []) && (op == 0x04 || o.w == 0)

/-- The canonical encodings. -/
def Transaction.wf : Transaction → Bool
  | .header b0 b1 _ _ => syncBytesOk b0 b1
  | .command op o => opcodeKnown op && o.unreadLanesZero op

end Sys2Proof
end

