-- ==== Sys2Proof/Decode.lean ====
section
/-! DEFINITION. The decoder, total on every transaction and rejecting by name, the encoder, and the opcode table's
rows (30_encoding.md R60 to R63, R79, R84). -/

namespace Sys2Proof

/-- R12, R41: the big-endian word of four bytes. -/
def be32 (b0 b1 b2 b3 : Byte) : Word :=
  b0 ++ b1 ++ b2 ++ b3

/-- Byte `i` of a word in stream order: byte 0 is bits 31 to 24 (R41). -/
def wordByte (w : Word) (i : Nat) : Byte :=
  w.extractLsb' (24 - 8 * i) 8

/-- R61: the sync field, bits 31 to 21. -/
def syncField (w : Word) : BitVec 11 :=
  w.extractLsb' 21 11

/-- R61: the version code, bits 20 to 19. -/
def verCode (w : Word) : BitVec 2 :=
  w.extractLsb' 19 2

/-- R61: the layer code, bits 18 to 17. -/
def layerCode (w : Word) : BitVec 2 :=
  w.extractLsb' 17 2

/-- R63: the remaining raw fields, pure bit slicing. -/
def rawFields (w : Word) : HdrFields where
  protBit := w.extractLsb' 16 1
  brIndex := w.extractLsb' 12 4
  srIndex := w.extractLsb' 10 2
  padBit := w.extractLsb' 9 1
  privBit := w.extractLsb' 8 1
  modeCode := w.extractLsb' 6 2
  modeextCode := w.extractLsb' 4 2
  copyBit := w.extractLsb' 3 1
  origBit := w.extractLsb' 2 1
  emphCode := w.extractLsb' 0 2

/-- R102: `SyncMatch(w) := (w[31:21] = 0x7FF)`. -/
def syncMatch (w : Word) : Bool :=
  syncField w == 0x7FF

/-- Why a transaction is no instruction. -/
inductive DecodeError where
  /-- A header word that matches no row, since its sync field is not 0x7FF (R75 (a), R84). -/
  | syncMismatch
  /-- A command whose opcode is not one of R79's four. -/
  | unknownOpcode (op : Byte)
deriving DecidableEq, Repr

/-- The row of a header word that carries the sync pattern: R84 splits such words by `w[31:17]`. -/
def rowOfCodes (ver layer : BitVec 2) (f : HdrFields) : Instr :=
  match ver, layer with
  | 0b00#2, l => .hdrInvalidVer00 l f
  | 0b01#2, l => .hdrInvalidVer01 l f
  | 0b11#2, 0b11#2 => .hdrMpeg1L1 f
  | 0b11#2, 0b10#2 => .hdrMpeg1L2 f
  | 0b11#2, 0b01#2 => .hdrMpeg1L3 f
  | 0b11#2, 0b00#2 => .hdrInvalidMpeg1Layer00 f
  | 0b10#2, 0b11#2 => .hdrMpeg2L1 f
  | 0b10#2, 0b10#2 => .hdrMpeg2L2 f
  | 0b10#2, 0b01#2 => .hdrMpeg2L3 f
  | 0b10#2, 0b00#2 => .hdrInvalidMpeg2Layer00 f

/-- Format HDR32: the row a header word belongs to (R84). -/
def decodeHeaderWord (w : Word) : Except DecodeError Instr :=
  if syncMatch w then .ok (rowOfCodes (verCode w) (layerCode w) (rawFields w)) else .error .syncMismatch

/-- Format CMD: the command an opcode and its operands stand for (R79). -/
def decodeCommand (op : Byte) (o : Operands) : Except DecodeError Instr :=
  if op = 0x01 then .ok (.create o.r)
  else if op = 0x02 then .ok (.demand o.n)
  else if op = 0x03 then .ok (.deliver o.chunk)
  else if op = 0x04 then .ok (.decode o.w)
  else .error (.unknownOpcode op)

/-- The decoder. -/
def decode : Transaction → Except DecodeError Instr
  | .header b0 b1 b2 b3 => decodeHeaderWord (be32 b0 b1 b2 b3)
  | .command op o => decodeCommand op o

/-- A header word from its codes, in the field order and widths of R60, with the sync pattern on top. -/
def packHeader (ver layer : BitVec 2) (f : HdrFields) : Word :=
  0x7FF#11 ++ ver ++ layer ++ f.protBit ++ f.brIndex ++ f.srIndex ++ f.padBit ++ f.privBit ++ f.modeCode ++
    f.modeextCode ++ f.copyBit ++ f.origBit ++ f.emphCode

/-- A header word as the four bytes of the stream. -/
def headerTransaction (w : Word) : Transaction :=
  .header (wordByte w 0) (wordByte w 1) (wordByte w 2) (wordByte w 3)

/-- The encoder: the transaction of an instruction (R61, R79). -/
def encode : Instr → Transaction
  | .hdrMpeg1L1 f => headerTransaction (packHeader 0b11 0b11 f)
  | .hdrMpeg1L2 f => headerTransaction (packHeader 0b11 0b10 f)
  | .hdrMpeg1L3 f => headerTransaction (packHeader 0b11 0b01 f)
  | .hdrMpeg2L1 f => headerTransaction (packHeader 0b10 0b11 f)
  | .hdrMpeg2L2 f => headerTransaction (packHeader 0b10 0b10 f)
  | .hdrMpeg2L3 f => headerTransaction (packHeader 0b10 0b01 f)
  | .hdrInvalidVer00 l f => headerTransaction (packHeader 0b00 l f)
  | .hdrInvalidVer01 l f => headerTransaction (packHeader 0b01 l f)
  | .hdrInvalidMpeg1Layer00 f => headerTransaction (packHeader 0b11 0b00 f)
  | .hdrInvalidMpeg2Layer00 f => headerTransaction (packHeader 0b10 0b00 f)
  | .create r => .command 0x01 { Operands.zero with r := r }
  | .demand n => .command 0x02 { Operands.zero with n := n }
  | .deliver chunk => .command 0x03 { Operands.zero with chunk := chunk }
  | .decode w => .command 0x04 { Operands.zero with w := w }

/-- A row of the opcode table: under `mask`, an instruction of this row reads `pattern`. -/
structure Row where
  mnemonic : String
  width : Nat
  pattern : Nat
  mask : Nat
deriving DecidableEq, Repr

/-- The row of spec/opcode_table.json an instruction belongs to (R84). -/
def Instr.row : Instr → Row
  | .hdrMpeg1L1 _ => ⟨"HDR_MPEG1_L1", 32, 0xFFFE0000, 0xFFFE0000⟩
  | .hdrMpeg1L2 _ => ⟨"HDR_MPEG1_L2", 32, 0xFFFC0000, 0xFFFE0000⟩
  | .hdrMpeg1L3 _ => ⟨"HDR_MPEG1_L3", 32, 0xFFFA0000, 0xFFFE0000⟩
  | .hdrMpeg2L1 _ => ⟨"HDR_MPEG2_L1", 32, 0xFFF60000, 0xFFFE0000⟩
  | .hdrMpeg2L2 _ => ⟨"HDR_MPEG2_L2", 32, 0xFFF40000, 0xFFFE0000⟩
  | .hdrMpeg2L3 _ => ⟨"HDR_MPEG2_L3", 32, 0xFFF20000, 0xFFFE0000⟩
  | .hdrInvalidVer00 _ _ => ⟨"HDR_INVALID_VER00", 32, 0xFFE00000, 0xFFF80000⟩
  | .hdrInvalidVer01 _ _ => ⟨"HDR_INVALID_VER01", 32, 0xFFE80000, 0xFFF80000⟩
  | .hdrInvalidMpeg1Layer00 _ => ⟨"HDR_INVALID_MPEG1_LAYER00", 32, 0xFFF80000, 0xFFFE0000⟩
  | .hdrInvalidMpeg2Layer00 _ => ⟨"HDR_INVALID_MPEG2_LAYER00", 32, 0xFFF00000, 0xFFFE0000⟩
  | .create _ => ⟨"CREATE", 8, 0x01, 0xFF⟩
  | .demand _ => ⟨"DEMAND", 8, 0x02, 0xFF⟩
  | .deliver _ => ⟨"DELIVER", 8, 0x03, 0xFF⟩
  | .decode _ => ⟨"DECODE", 8, 0x04, 0xFF⟩

/-- The bits a row's mask is laid over: the header word, or the opcode. -/
def Transaction.tableBits : Transaction → Nat
  | .header b0 b1 b2 b3 => (be32 b0 b1 b2 b3).toNat
  | .command op _ => op.toNat

/-- The transaction whose bits, numbered as spec/opcode_table.json numbers them, are `w`: 8 bits are an opcode
with every operand lane zero, more are a 32-bit header word stored big-endian (log entry 10). -/
def tableTransaction (nbits w : Nat) : Transaction :=
  if nbits ≤ 8 then .command (BitVec.ofNat 8 (w % 2 ^ nbits)) Operands.zero
  else headerTransaction (BitVec.ofNat 32 (w % 2 ^ nbits))

/-- The instruction the decoder reads from a table word. -/
def decodeTableWord (nbits w : Nat) : Option Instr :=
  match decode (tableTransaction nbits w) with
  | .ok i => some i
  | .error _ => none

end Sys2Proof
end

