-- ==== Sys2Proof/Machine/State.lean ====
section
/-! DEFINITION. The state of one MPAHD block as plain data (10_state.md), the descriptor and the events it produces
(10_state.md R27, 30_encoding.md R80, R81), and the reasons a step can stop. -/

namespace Sys2Proof.Machine

/-- The audio version of a valid descriptor (R27). -/
inductive Version where
  | mpeg1
  | mpeg2
deriving DecidableEq, Repr

/-- The layer of a valid descriptor (R27). -/
inductive Layer where
  | I
  | II
  | III
deriving DecidableEq, Repr

/-- The channel mode (R27, R71). -/
inductive ChannelMode where
  | stereo
  | jointStereo
  | dualChannel
  | mono
deriving DecidableEq, Repr

/-- The emphasis of a valid descriptor (R27, R74). -/
inductive Emphasis where
  | none
  | ms50_15
  | ccittJ17
deriving DecidableEq, Repr

/-- The Format Descriptor of R27, all 13 fields. -/
structure Descriptor where
  version : Version
  layer : Layer
  crcEnabled : Bool
  /-- kbps -/
  bitrate : Nat
  /-- Hz -/
  sampleRate : Nat
  paddingEnabled : Bool
  /-- The spec's `private`, an opaque passthrough bit. -/
  privateBit : Bool
  channelMode : ChannelMode
  channels : Nat
  modeExtension : BitVec 2
  copyright : Bool
  original : Bool
  emphasisMode : Emphasis
deriving DecidableEq, Repr

/-- R81, R220: the three error kinds. -/
inductive ErrorKind where
  | invalidHeader
  | invalidFrameBoundary
  | misaligned
deriving DecidableEq, Repr

/-- R80: the four kinds of output event. A payload is a copy of bytes (R47). -/
inductive Event where
  | descriptorChanged (d : Descriptor)
  | frameReady (bytes : Bytes)
  | bytesDropped (bytes : Bytes)
  | fatal (kind : ErrorKind) (bytes : Bytes)
deriving DecidableEq, Repr

/-- R25: the lifecycle control state. -/
inductive Fsm where
  | uninit
  | ready
  | faulted
deriving DecidableEq, Repr

/-- R230: why a command is refused. -/
inductive RefuseReason where
  /-- DEMAND or DELIVER in UNINIT. -/
  | uninit
  /-- DEMAND or DELIVER in FAULTED. -/
  | faulted
  /-- DELIVER that would exceed `P_BUF_CAP` (R46). -/
  | capacity
  /-- An opcode that R79 does not list. -/
  | unknownOpcode (op : Byte)
deriving DecidableEq, Repr

/-- R110, R211: a decoded header with its frame size, or `invalid_header`. -/
inductive ProbeResult where
  | ok (d : Descriptor) (frameSize : Nat)
  | invalidHeader
deriving DecidableEq, Repr

/-- What the host receives from a command (43_host_commands.md). The model keeps the last one (log entry 4). -/
inductive Response where
  /-- Nothing yet, or CREATE, which has no result (R191). -/
  | none
  /-- DEMAND's byte count (R197). -/
  | byteCount (n : Nat)
  /-- DELIVER's ordered event list (R199). -/
  | events (ev : List Event)
  /-- The decoder's result (R110, R211). -/
  | decoded (r : ProbeResult)
  /-- No result: the command was refused (R230). -/
  | refused (why : RefuseReason)
deriving DecidableEq, Repr

/-- The one memory (20_memory.md R40): the byte sequence `buffer`, addressed by byte index alone. -/
abbrev Memory := Bytes

/-- The state. The first five fields after `params` are the spec's record (R20). -/
structure State where
  /-- The model's own: the parameters of R8, constant (log entry 1). -/
  params : Params
  fsm : Fsm
  resyncEnabled : Bool
  buffer : Memory
  lastDescriptor : Option Descriptor
  estFrameSize : Nat
  /-- The model's own: issued commands the block has not taken, oldest first (R10, log entry 3). -/
  hostQueue : List Transaction
  /-- The model's own: the last command's result (log entry 4). -/
  response : Response
  /-- R230: the refusals recorded in this run, oldest first (log entry 5). -/
  refusals : List RefuseReason
deriving DecidableEq, Repr

/-- Why the machine stops with a fault. -/
inductive Fault where
  /-- Raised by DELIVER if the extractor loop were still running after one pass more than the buffer has bytes.
  41_frame_extractor.md R153 rules that out, so no run reaches it; were it reached, stopping is safe. -/
  | passBound
deriving DecidableEq, Repr

/-- Why an instruction has no meaning. The spec's own refusals (R230) are next states, not this. -/
inductive Refusal where
  /-- Raised by exec's arm of an instruction that the model does not give a meaning yet. Safe. -/
  | notModelled (mnemonic : String)
deriving DecidableEq, Repr

/-- Power-on (R36, R250): UNINIT, with the default parameters. The spec leaves the other fields of R20
unspecified there and lets no command read them; the values here are the model's (log entry 2, DESIGN CHOICE). -/
def State.reset : State where
  params := Params.default
  fsm := .uninit
  resyncEnabled := false
  buffer := []
  lastDescriptor := none
  estFrameSize := headerSize
  hostQueue := []
  response := .none
  refusals := []

end Sys2Proof.Machine
end

