-- ==== Sys2Proof/Machine/Operands.lean ====
section
/-! DEFINITION. The field tables of a header (30_encoding.md R64 to R74) and the lookups over them
(40_header_decoder.md R103 to R109). The numbers are the spec's, from general knowledge (log entry 11). -/

namespace Sys2Proof.Machine

/-- R64, R103. -/
def lookupVersion (code : BitVec 2) : Option Version :=
  match code with
  | 0b11#2 => some .mpeg1
  | 0b10#2 => some .mpeg2
  | 0b01#2 => none
  | 0b00#2 => none

/-- R65, R104. -/
def lookupLayer (code : BitVec 2) : Option Layer :=
  match code with
  | 0b11#2 => some .I
  | 0b10#2 => some .II
  | 0b01#2 => some .III
  | 0b00#2 => none

/-- An entry of a bitrate table: kbps, or one of the two failure values (R67, R105). -/
inductive BitrateEntry where
  | kbps (n : Nat)
  | free
  | invalid
deriving DecidableEq, Repr

/-- R67, R68: the entries for indices 1 to 14, in kbps. -/
def bitrateColumn : Version → Layer → List Nat
  | .mpeg1, .I => [32, 64, 96, 128, 160, 192, 224, 256, 288, 320, 352, 384, 416, 448]
  | .mpeg1, .II => [32, 48, 56, 64, 80, 96, 112, 128, 160, 192, 224, 256, 320, 384]
  | .mpeg1, .III => [32, 40, 48, 56, 64, 80, 96, 112, 128, 160, 192, 224, 256, 320]
  | .mpeg2, .I => [32, 48, 56, 64, 80, 96, 112, 128, 144, 160, 176, 192, 224, 256]
  | .mpeg2, .II => [8, 16, 24, 32, 40, 48, 56, 64, 80, 96, 112, 128, 144, 160]
  | .mpeg2, .III => [8, 16, 24, 32, 40, 48, 56, 64, 80, 96, 112, 128, 144, 160]

/-- R105: index 0 is `free`, index 15 is `invalid`, the others are the column's entries. -/
def lookupBitrate (v : Version) (l : Layer) (index : BitVec 4) : BitrateEntry :=
  match index.toNat with
  | 0 => .free
  | k + 1 =>
    match (bitrateColumn v l)[k]? with
    | some n => .kbps n
    | none => .invalid

/-- R69: the sample rates of a version for codes 0 to 2, in Hz. -/
def sampleRateColumn : Version → List Nat
  | .mpeg1 => [44100, 48000, 32000]
  | .mpeg2 => [22050, 24000, 16000]

/-- R69, R106: code 3 is `invalid`. -/
def lookupSampleRate (v : Version) (index : BitVec 2) : Option Nat :=
  (sampleRateColumn v)[index.toNat]?

/-- R71, R107. -/
def lookupChannelMode (code : BitVec 2) : ChannelMode :=
  match code with
  | 0b00#2 => .stereo
  | 0b01#2 => .jointStereo
  | 0b10#2 => .dualChannel
  | 0b11#2 => .mono

/-- R30, R107. -/
def channelsOf : ChannelMode → Nat
  | .mono => 1
  | .stereo | .jointStereo | .dualChannel => 2

/-- R74, R109. -/
def lookupEmphasis (code : BitVec 2) : Option Emphasis :=
  match code with
  | 0b00#2 => some .none
  | 0b01#2 => some .ms50_15
  | 0b10#2 => none
  | 0b11#2 => some .ccittJ17

/-- R66: the wire bit is compared with `P_CRC_ENABLED_BIT`. -/
def crcEnabledOf (p : Params) (protBit : BitVec 1) : Bool :=
  protBit == p.crcEnabledBit

end Sys2Proof.Machine
end

