-- ==== Sys2Proof/Machine/HeaderDecoder.lean ====
section
/-! DEFINITION. The Header Decoder: `Decode(w)` as 40_header_decoder.md R110 writes it, and the frame size of a
descriptor (41_frame_extractor.md R137). Both are pure (R101). -/

namespace Sys2Proof.Machine

/-- R100: the decoder's result. -/
inductive DecodeResult where
  | ok (d : Descriptor)
  | invalidHeader
deriving DecidableEq, Repr

/-- R66, R70 to R73, R108: the descriptor of a header whose table lookups succeeded. -/
def buildDescriptor (p : Params) (v : Version) (l : Layer) (kbps hz : Nat) (em : Emphasis) (f : HdrFields) :
    Descriptor where
  version := v
  layer := l
  crcEnabled := crcEnabledOf p f.protBit
  bitrate := kbps
  sampleRate := hz
  paddingEnabled := f.padBit == 1
  privateBit := f.privBit == 1
  channelMode := lookupChannelMode f.modeCode
  channels := channelsOf (lookupChannelMode f.modeCode)
  modeExtension := f.modeextCode
  copyright := f.copyBit == 1
  original := f.origBit == 1
  emphasisMode := em

/-- R110 from the bitrate lookup on, for a header whose version and layer are valid. -/
def decodeFields (p : Params) (v : Version) (l : Layer) (f : HdrFields) : DecodeResult :=
  match lookupBitrate v l f.brIndex with
  | .free => .invalidHeader
  | .invalid => .invalidHeader
  | .kbps kbps =>
    match lookupSampleRate v f.srIndex with
    | none => .invalidHeader
    | some hz =>
      match lookupEmphasis f.emphCode with
      | none => .invalidHeader
      | some em => .ok (buildDescriptor p v l kbps hz em f)

/-- R110: `Decode(w)`, the whole function. -/
def decodeHeader (p : Params) (w : Word) : DecodeResult :=
  if !syncMatch w then .invalidHeader
  else
    match lookupVersion (verCode w) with
    | none => .invalidHeader
    | some v =>
      match lookupLayer (layerCode w) with
      | none => .invalidHeader
      | some l => decodeFields p v l (rawFields w)

/-- R136: the coefficient of MPEG2 Layer III. -/
def lsfCoeff (p : Params) : Nat :=
  match p.lsfL3Coeff with
  | .c72 => 72
  | .c144 => 144

/-- R137: `FrameSize(d)`, header included. -/
def frameSize (p : Params) (d : Descriptor) : Nat :=
  let pad := if d.paddingEnabled then 1 else 0
  let bps := d.bitrate * 1000
  match d.layer, d.version with
  | .I, _ => ((12 * bps) / d.sampleRate + pad) * 4
  | .II, _ => (144 * bps) / d.sampleRate + pad
  | .III, .mpeg1 => (144 * bps) / d.sampleRate + pad
  | .III, .mpeg2 => (lsfCoeff p * bps) / d.sampleRate + pad

/-- R211: a decode result with the frame size added. -/
def withFrameSize (p : Params) : DecodeResult → ProbeResult
  | .invalidHeader => .invalidHeader
  | .ok d => .ok d (frameSize p d)

end Sys2Proof.Machine
end

