-- ==== Sys2Proof/Machine/Flags.lean ====
section
/-! DEFINITION. The two status flags of 10_state.md R32, derived from the state record and not stored. -/

namespace Sys2Proof.Machine

/-- R32: `faulted := (fsm = FAULTED)`. -/
def faulted (s : State) : Bool :=
  s.fsm == .faulted

/-- R32: `has_descriptor := (last_descriptor ≠ none)`. -/
def hasDescriptor (s : State) : Bool :=
  s.lastDescriptor.isSome

end Sys2Proof.Machine
end

