-- ==== Sys2Proof/Machine/Ops.lean ====
section
/-! DEFINITION. The named operations over the state: the primitives of 00_scope.md R13, the results and refusals of a
command, taking a Fatal (60_exceptions.md R224) and leaving one (R231). -/

namespace Sys2Proof.Machine

/-- The buffer as (index, byte) cells, index 0 the oldest byte (20_memory.md R40). -/
def Memory.cells (m : Memory) : List Host.Cell :=
  m.zipIdx.map fun c => (c.2, c.1)

/-- The canonical form of a memory: its cells' indices strictly rise. -/
abbrev Memory.wf (m : Memory) : Prop :=
  m.cells.Pairwise fun a b => a.1 < b.1

/-- The byte at an index; an index at or past the length holds no byte (R40, log entry 14). -/
def byteAt (m : Memory) (i : Nat) : Option Byte :=
  m[i]?

/-- R13: `MemRead(i, n)`, the bytes `i` up to `i + n`. -/
def memRead (m : Memory) (i n : Nat) : Bytes :=
  (m.drop i).take n

/-- Whether `P_BUF_CAP` admits a buffer of `n` bytes (R46). -/
def fits (p : Params) (n : Nat) : Bool :=
  match p.bufCap with
  | none => true
  | some cap => n ≤ cap

/-- The working copy of the state inside one DELIVER, with the events produced so far (41_frame_extractor.md,
43_host_commands.md R203). It does not outlive the command. -/
structure Work where
  st : State
  ev : List Event
deriving DecidableEq, Repr

/-- R200: the working copy at the start of a DELIVER. -/
def begin (s : State) : Work :=
  { st := s, ev := [] }

/-- R13: `emit E`. -/
def emit (e : Event) (w : Work) : Work :=
  { w with ev := w.ev ++ [e] }

/-- Replace the working buffer. -/
def setBuffer (m : Memory) (w : Work) : Work :=
  { w with st := { w.st with buffer := m } }

/-- R13: `Append(c)`. -/
def append (c : Bytes) (w : Work) : Work :=
  setBuffer (w.st.buffer ++ c) w

/-- R13: `Drop(k)`. -/
def drop (k : Nat) (w : Work) : Work :=
  setBuffer (w.st.buffer.drop k) w

/-- R26: write the frame-size estimate. -/
def setEst (n : Nat) (w : Work) : Work :=
  { w with st := { w.st with estFrameSize := n } }

/-- R24: write the last descriptor. -/
def setDescriptor (d : Descriptor) (w : Work) : Work :=
  { w with st := { w.st with lastDescriptor := some d } }

/-- R224, entry into the fault: emit `Fatal` with the whole working buffer and go to FAULTED. The buffer, the
descriptor and the estimate stay as they are. The caller ends the loop. -/
def raiseFatal (kind : ErrorKind) (w : Work) : Work :=
  let w' := emit (.fatal kind w.st.buffer) w
  { w' with st := { w'.st with fsm := .faulted } }

/-- R203, R225: the events handed to the host. A delivery that ended in Fatal hands over the events before it only
if `P_FATAL_KEEPS_PRIOR`. -/
def handedOver (w : Work) : List Event :=
  if faulted w.st && !w.st.params.fatalKeepsPrior then w.ev.drop (w.ev.length - 1) else w.ev

/-- R203: the working state replaces the block's state, and the event list is handed to the host. -/
def commit (w : Work) : State :=
  { w.st with response := .events (handedOver w) }

/-- A command that leaves the state record as it is and returns a result. -/
def respond (r : Response) (s : State) : State :=
  { s with response := r }

/-- R13, R230: a refused command. The state record is unchanged, no event and no result is given, and the refusal is
recorded for the rest of the run (log entry 5). -/
def refuse (why : RefuseReason) (s : State) : State :=
  { s with response := .refused why, refusals := s.refusals ++ [why] }

/-- R191, R251: the state CREATE leaves, from any state; the only way out of FAULTED (R231). -/
def created (r : Bool) (s : State) : State :=
  { s with
    fsm := .ready
    resyncEnabled := r
    buffer := []
    lastDescriptor := none
    estFrameSize := headerSize
    response := .none }

end Sys2Proof.Machine
end

