-- ==== Sys2Proof/Machine/Header.lean ====
section
/-! DEFINITION. The meanings of the ten HDR32 rows. A header presented by itself runs the Header Decoder: the result is
a descriptor with its frame size, or `invalid_header`, and the state record is untouched (40_header_decoder.md R100,
R101, R110; 41_frame_extractor.md R137; log entry 6). Inside a DELIVER the extractor decodes the same word. -/

namespace Sys2Proof.Machine

/-- The outcome of a header row whose decode gives `r`. -/
def headerOutcome (r : DecodeResult) (s : State) : Host.Outcome State Fault Refusal :=
  .next (respond (.decoded (withFrameSize s.params r)) s)

/-- HDR_MPEG1_L1 (R110). -/
def execHdrMpeg1L1 (f : HdrFields) (s : State) : Host.Outcome State Fault Refusal :=
  headerOutcome (decodeFields s.params .mpeg1 .I f) s

/-- HDR_MPEG1_L2 (R110). -/
def execHdrMpeg1L2 (f : HdrFields) (s : State) : Host.Outcome State Fault Refusal :=
  headerOutcome (decodeFields s.params .mpeg1 .II f) s

/-- HDR_MPEG1_L3 (R110). -/
def execHdrMpeg1L3 (f : HdrFields) (s : State) : Host.Outcome State Fault Refusal :=
  headerOutcome (decodeFields s.params .mpeg1 .III f) s

/-- HDR_MPEG2_L1 (R110). -/
def execHdrMpeg2L1 (f : HdrFields) (s : State) : Host.Outcome State Fault Refusal :=
  headerOutcome (decodeFields s.params .mpeg2 .I f) s

/-- HDR_MPEG2_L2 (R110). -/
def execHdrMpeg2L2 (f : HdrFields) (s : State) : Host.Outcome State Fault Refusal :=
  headerOutcome (decodeFields s.params .mpeg2 .II f) s

/-- HDR_MPEG2_L3 (R110). -/
def execHdrMpeg2L3 (f : HdrFields) (s : State) : Host.Outcome State Fault Refusal :=
  headerOutcome (decodeFields s.params .mpeg2 .III f) s

/-- HDR_INVALID_VER00: ver_code 00 is invalid whatever the other fields (R75 (b), R103). -/
def execHdrInvalidVer00 (_layerCode : BitVec 2) (_f : HdrFields) (s : State) : Host.Outcome State Fault Refusal :=
  headerOutcome .invalidHeader s

/-- HDR_INVALID_VER01: ver_code 01 is reserved (R75 (b), R103). -/
def execHdrInvalidVer01 (_layerCode : BitVec 2) (_f : HdrFields) (s : State) : Host.Outcome State Fault Refusal :=
  headerOutcome .invalidHeader s

/-- HDR_INVALID_MPEG1_LAYER00: layer_code 00 is reserved (R75 (c), R104). -/
def execHdrInvalidMpeg1Layer00 (_f : HdrFields) (s : State) : Host.Outcome State Fault Refusal :=
  headerOutcome .invalidHeader s

/-- HDR_INVALID_MPEG2_LAYER00: layer_code 00 is reserved (R75 (c), R104). -/
def execHdrInvalidMpeg2Layer00 (_f : HdrFields) (s : State) : Host.Outcome State Fault Refusal :=
  headerOutcome .invalidHeader s

end Sys2Proof.Machine
end

