-- ==== Sys2Proof/Machine/Resync.lean ====
section
/-! DEFINITION. The Resynchronizer (42_resync.md) and the sync test it shares with the extractor
(41_frame_extractor.md R130). -/

namespace Sys2Proof.Machine

/-- The three sync bits of a header's second byte: `(b & 0xE0) = 0xE0`. -/
def topThree (b : Byte) : Bool :=
  (b &&& 0xE0) == 0xE0

/-- R130: `HasSyncAt(b, i)`; it needs two bytes. -/
def hasSyncAt (b : Bytes) (i : Nat) : Bool :=
  match b[i]?, b[i + 1]? with
  | some x, some y => x == 0xFF && topThree y
  | _, _ => false

/-- R171: `IsCandidateAt(b, i)`; a final 0xFF is a candidate. -/
def isCandidateAt (b : Bytes) (i : Nat) : Bool :=
  match b[i]?, b[i + 1]? with
  | some x, some y => x == 0xFF && topThree y
  | some x, none => x == 0xFF
  | none, _ => false

/-- How many bytes stand before the first candidate; all of them if there is none. -/
def scan : Bytes → Nat
  | [] => 0
  | b :: rest => if isCandidateAt (b :: rest) 0 then 0 else scan rest + 1

/-- R172: where `Align(b, start)` cuts. -/
def alignAt (b : Bytes) (start : Nat) : Nat :=
  min start b.length + scan (b.drop start)

/-- R172: `Align(b, start)`, the dropped and the kept bytes. -/
def align (b : Bytes) (start : Nat) : Bytes × Bytes :=
  (b.take (alignAt b start), b.drop (alignAt b start))

/-- R173: the proactive align, when resync is enabled (R179). -/
def proactiveAlign (w : Work) : Work :=
  if w.st.resyncEnabled then
    let cut := align w.st.buffer 0
    setBuffer cut.2 (if cut.1.length > 0 then emit (.bytesDropped cut.1) w else w)
  else w

/-- R174: the failure resync; it always drops the first byte. -/
def resync (w : Work) : Work :=
  let cut := align w.st.buffer 1
  setBuffer cut.2 (emit (.bytesDropped cut.1) w)

end Sys2Proof.Machine
end

