-- ==== Sys2Proof/Machine/Extractor.lean ====
section
/-! DEFINITION. The Frame Extractor (41_frame_extractor.md R140 to R152). -/

namespace Sys2Proof.Machine

/-- R140: the loop states, recomputed from the buffer at each pass. -/
inductive LoopState where
  | empty
  | needMore
  | misaligned
  /-- With the header word of R143. -/
  | haveHeader (w : Word)
deriving DecidableEq, Repr

/-- R131, R132, R140: the length is tested before the sync. -/
def loopState (b : Memory) : LoopState :=
  match b with
  | [] => .empty
  | b0 :: b1 :: b2 :: b3 :: _ => if hasSyncAt b 0 then .haveHeader (be32 b0 b1 b2 b3) else .misaligned
  | _ => .needMore

/-- R147: the guard's three results. -/
inductive GuardResult where
  | pass
  | fail
  | wait
deriving DecidableEq, Repr

/-- R147: `Guard(rest)`. -/
def guardCheck (p : Params) (rest : Bytes) : GuardResult :=
  match rest with
  | [] => .pass
  | [x] => if p.guardMode = .waitShort ∧ x = 0xFF then .wait else .fail
  | _ => if hasSyncAt rest 0 then .pass else .fail

/-- How a pass ends: the loop goes on, or it returns or is ended by a Fatal. -/
inductive PassResult where
  | again (w : Work)
  | stop (w : Work)
deriving DecidableEq, Repr

/-- R149: `OnFailure(kind)`, on the whole buffer. -/
def onFailure (kind : ErrorKind) (w : Work) : PassResult :=
  if w.st.resyncEnabled then .again (resync w) else .stop (raiseFatal kind w)

/-- R151: a descriptor change is announced ahead of the frame. -/
def announce (d : Descriptor) (w : Work) : Work :=
  if w.st.lastDescriptor = some d then w else setDescriptor d (emit (.descriptorChanged d) w)

/-- R150, R151: emit the frame of `fs` bytes at the head of the buffer and consume it. -/
def emitFrame (d : Descriptor) (fs : Nat) (w : Work) : Work :=
  drop fs (setEst fs (emit (.frameReady (memRead w.st.buffer 0 fs)) (announce d w)))

/-- R145 to R151: a pass whose header decoded to `d`. -/
def framePass (d : Descriptor) (w : Work) : PassResult :=
  let fs := frameSize w.st.params d
  if w.st.buffer.length < fs then .stop (setEst fs w)
  else
    match guardCheck w.st.params (w.st.buffer.drop fs) with
    | .wait => .stop (setEst fs w)
    | .fail => onFailure .invalidFrameBoundary w
    | .pass => .again (emitFrame d fs w)

/-- R152: one pass of the loop. -/
def pass (w : Work) : PassResult :=
  match loopState w.st.buffer with
  | .empty => .stop w
  | .needMore => .stop w
  | .misaligned => .stop (raiseFatal .misaligned w)
  | .haveHeader word =>
    match decodeHeader w.st.params word with
    | .invalidHeader => onFailure .invalidHeader w
    | .ok d => framePass d w

/-- R152: the loop, for at most the given number of passes; `none` if it were still running then. -/
def extract : Nat → Work → Option Work
  | 0, _ => none
  | n + 1, w =>
    match pass w with
    | .again w' => extract n w'
    | .stop w' => some w'

end Sys2Proof.Machine
end

