-- ==== Sys2Proof/Machine/HostCommand.lean ====
section
/-! DEFINITION. The meanings of the four host commands (43_host_commands.md), each one atomic transition (R10). -/

namespace Sys2Proof.Machine

/-- CREATE r (R191): runs in every `fsm`. -/
def execCreate (r : Bool) (s : State) : Host.Outcome State Fault Refusal :=
  .next (created r s)

/-- R197: `max(0, est * n - len(buffer) + HEADER_SIZE)`, over the integers with the clamp at 0. -/
def demandCount (n : Nat) (s : State) : Nat :=
  ((s.estFrameSize : Int) * n - s.buffer.length + headerSize).toNat

/-- R190: run a command that needs READY, or refuse it. -/
def whenReady (s : State) (run : Host.Outcome State Fault Refusal) : Host.Outcome State Fault Refusal :=
  match s.fsm with
  | .uninit => .next (refuse .uninit s)
  | .faulted => .next (refuse .faulted s)
  | .ready => run

/-- DEMAND n (R196). -/
def execDemand (n : Nat) (s : State) : Host.Outcome State Fault Refusal :=
  whenReady s (.next (respond (.byteCount (demandCount n s)) s))

/-- R200, R201: a DELIVER up to the extractor loop. -/
def deliverStart (chunk : Bytes) (s : State) : Work :=
  proactiveAlign (append chunk (begin s))

/-- R202, R203: the extractor loop and the commit. -/
def deliverRun (w : Work) : Host.Outcome State Fault Refusal :=
  match extract (w.st.buffer.length + 1) w with
  | none => .fault .passBound
  | some w' => .next (commit w')

/-- DELIVER chunk (R199, R204). -/
def execDeliver (chunk : Bytes) (s : State) : Host.Outcome State Fault Refusal :=
  whenReady s
    (if fits s.params (s.buffer.length + chunk.length) then deliverRun (deliverStart chunk s)
    else .next (refuse .capacity s))

/-- DECODE w (R211): runs in every `fsm`. -/
def execDecode (w : Word) (s : State) : Host.Outcome State Fault Refusal :=
  .next (respond (.decoded (withFrameSize s.params (decodeHeader s.params w))) s)

end Sys2Proof.Machine
end

