-- ==== Sys2Proof/Machine/Dispatch.lean ====
section
/-! DEFINITION. The meaning of each instruction, one arm per row of the opcode table. -/

namespace Sys2Proof.Machine

def exec (i : Instr) (s : State) : Host.Outcome State Fault Refusal :=
  match i with
  | .hdrMpeg1L1 f => Sys2Proof.Machine.execHdrMpeg1L1 f s
  | .hdrMpeg1L2 f => Sys2Proof.Machine.execHdrMpeg1L2 f s
  | .hdrMpeg1L3 f => Sys2Proof.Machine.execHdrMpeg1L3 f s
  | .hdrMpeg2L1 f => Sys2Proof.Machine.execHdrMpeg2L1 f s
  | .hdrMpeg2L2 f => Sys2Proof.Machine.execHdrMpeg2L2 f s
  | .hdrMpeg2L3 f => Sys2Proof.Machine.execHdrMpeg2L3 f s
  | .hdrInvalidVer00 layerCode f => Sys2Proof.Machine.execHdrInvalidVer00 layerCode f s
  | .hdrInvalidVer01 layerCode f => Sys2Proof.Machine.execHdrInvalidVer01 layerCode f s
  | .hdrInvalidMpeg1Layer00 f => Sys2Proof.Machine.execHdrInvalidMpeg1Layer00 f s
  | .hdrInvalidMpeg2Layer00 f => Sys2Proof.Machine.execHdrInvalidMpeg2Layer00 f s
  | .create r => Sys2Proof.Machine.execCreate r s
  | .demand n => Sys2Proof.Machine.execDemand n s
  | .deliver chunk => Sys2Proof.Machine.execDeliver chunk s
  | .decode w => Sys2Proof.Machine.execDecode w s

end Sys2Proof.Machine
end

