-- ==== Sys2Proof/Machine/Fetch.lean ====
section
/-! DEFINITION. Taking the host's next transaction, and what becomes of one that is no instruction. -/

namespace Sys2Proof.Machine

/-- R10, R50: the oldest issued transaction and the state once it is taken; none while the host has issued nothing. -/
def fetch (s : State) : Option (Transaction × State) :=
  match s.hostQueue with
  | [] => none
  | t :: rest => some (t, { s with hostQueue := rest })

/-- A header that matches no row decodes to `invalid_header` (R75 (a), R84); an opcode that R79 does not list is
refused in every `fsm` (R190, R230). -/
def rejected : DecodeError → State → State
  | .syncMismatch, s => respond (.decoded .invalidHeader) s
  | .unknownOpcode op, s => refuse (.unknownOpcode op) s

/-- Issue a transaction ahead of the queue, so that the next step takes it. -/
def issueFirst (t : Transaction) (s : State) : State :=
  { s with hostQueue := t :: s.hostQueue }

end Sys2Proof.Machine
end

