-- ==== Sys2Proof/Machine/Step.lean ====
section
/-! DEFINITION. One step: the block takes the host's next transaction and performs it whole (00_scope.md R10). With
nothing issued it is idle and keeps its state (60_exceptions.md R238, log entry 3). -/

namespace Sys2Proof.Machine

def step (s : State) : Host.Outcome State Fault Refusal :=
  match fetch s with
  | none => .next s
  | some (t, s') =>
    match decode t with
    | .ok i => exec i s'
    | .error e => .next (rejected e s')

/-- The table word issued ahead of the queue (log entry 10). -/
def State.withFetchWord (s : State) (nbits w : Nat) : State :=
  issueFirst (tableTransaction nbits w) s

end Sys2Proof.Machine
end

