-- ==== Sys2Proof/Machine/Port.lean ====
section
/-! DEFINITION. The codes of the outputs at a hardware port (30_encoding.md R80 to R82). -/

namespace Sys2Proof.Machine

/-- R80: the tag of an event. -/
def Event.tag : Event → Nat
  | .descriptorChanged _ => 0
  | .frameReady _ => 1
  | .bytesDropped _ => 2
  | .fatal _ _ => 3

/-- R81: the code of an error kind. -/
def ErrorKind.code : ErrorKind → Nat
  | .invalidHeader => 1
  | .invalidFrameBoundary => 2
  | .misaligned => 3

/-- R82: MPEG1=0, MPEG2=1. R82 gives the values and no width; one bit is the model's choice (log entry 19, DESIGN
CHOICE). -/
def Version.code : Version → BitVec 1
  | .mpeg1 => 0
  | .mpeg2 => 1

/-- R82: I=1, II=2, III=3. R82 gives the values and no width; two bits are the model's choice (log entry 19, DESIGN
CHOICE). -/
def Layer.code : Layer → BitVec 2
  | .I => 1
  | .II => 2
  | .III => 3

/-- R82: the wire code of R71. -/
def ChannelMode.code : ChannelMode → BitVec 2
  | .stereo => 0
  | .jointStereo => 1
  | .dualChannel => 2
  | .mono => 3

/-- R82: the wire code of R74. -/
def Emphasis.code : Emphasis → BitVec 2
  | .none => 0
  | .ms50_15 => 1
  | .ccittJ17 => 3

/-- R82: a Bool is 1 bit, true = 1. -/
def boolCode (b : Bool) : BitVec 1 :=
  if b then 1 else 0

/-- A descriptor as port fields, with the widths of R82, and of R71 and R74 for the wire codes. -/
structure PortDescriptor where
  /-- One bit: log entry 19, DESIGN CHOICE, as R82 gives the version code no width. -/
  version : BitVec 1
  /-- Two bits: log entry 19, DESIGN CHOICE, as R82 gives the layer code no width. -/
  layer : BitVec 2
  crcEnabled : BitVec 1
  bitrate : BitVec 9
  sampleRate : BitVec 16
  paddingEnabled : BitVec 1
  privateBit : BitVec 1
  channelMode : BitVec 2
  channels : BitVec 2
  modeExtension : BitVec 2
  copyright : BitVec 1
  original : BitVec 1
  emphasisMode : BitVec 2
deriving DecidableEq, Repr

/-- R82: a descriptor's port fields. -/
def Descriptor.toPort (d : Descriptor) : PortDescriptor where
  version := d.version.code
  layer := d.layer.code
  crcEnabled := boolCode d.crcEnabled
  bitrate := BitVec.ofNat 9 d.bitrate
  sampleRate := BitVec.ofNat 16 d.sampleRate
  paddingEnabled := boolCode d.paddingEnabled
  privateBit := boolCode d.privateBit
  channelMode := d.channelMode.code
  channels := BitVec.ofNat 2 d.channels
  modeExtension := d.modeExtension
  copyright := boolCode d.copyright
  original := boolCode d.original
  emphasisMode := d.emphasisMode.code

/-- What a port carries for one event: the tag, and the payload that the tag calls for (R80). That the parts stand side
by side, and that the tag and the error code are numbers with no width, is log entry 19 (DESIGN CHOICE). -/
structure PortEvent where
  tag : Nat
  descriptor : Option PortDescriptor
  kind : Option Nat
  bytes : Bytes
deriving DecidableEq, Repr

/-- R80 to R82: an event at the port. -/
def Event.toPort (e : Event) : PortEvent :=
  match e with
  | .descriptorChanged d => ⟨e.tag, some d.toPort, none, []⟩
  | .frameReady x => ⟨e.tag, none, none, x⟩
  | .bytesDropped x => ⟨e.tag, none, none, x⟩
  | .fatal k x => ⟨e.tag, none, some k.code, x⟩

end Sys2Proof.Machine
end

