-- ==== Sys2Proof/Safety.lean ====
section
/-! DEFINITION. The words claims are stated in: valid descriptors, frames, the shape and the bytes of an event list, what
causes each Fatal, the buffer cases of 10_state.md R35, and the invariant that every step keeps. -/

namespace Sys2Proof.Machine

/-- R28: no field of the descriptor resolved to `invalid` or `free`. The enumerated fields have no such value; the
numbers are entries of the tables, and `channels` follows the channel mode (R30). -/
abbrev Descriptor.Valid (d : Descriptor) : Prop :=
  d.bitrate ∈ bitrateColumn d.version d.layer ∧ d.sampleRate ∈ sampleRateColumn d.version ∧
    d.channels = channelsOf d.channelMode

/-- The descriptor of the header at the front of a byte sequence, if the extractor would decode one there. -/
def headerOf (p : Params) (b : Bytes) : Option Descriptor :=
  match loopState b with
  | .haveHeader w =>
    match decodeHeader p w with
    | .ok d => some d
    | .invalidHeader => none
  | _ => none

/-- R77: exactly one frame, its header decoding to `d`. -/
abbrev IsFrame (p : Params) (b : Bytes) (d : Descriptor) : Prop :=
  headerOf p b = some d ∧ b.length = frameSize p d

/-- R48 (a), (b): the stream bytes an event accounts for. -/
def Event.payload : Event → Bytes
  | .descriptorChanged _ => []
  | .frameReady x => x
  | .bytesDropped x => x
  | .fatal _ _ => []

/-- R49: the payloads in event order. -/
def payloads (ev : List Event) : Bytes :=
  ev.flatMap Event.payload

/-- Whether the event is a `Fatal`. -/
def Event.isFatal : Event → Bool
  | .fatal _ _ => true
  | _ => false

/-- Whether the event is a `BytesDropped`. -/
def Event.isDrop : Event → Bool
  | .bytesDropped _ => true
  | _ => false

/-- R151, R155: the events of consecutive frames with their descriptors, when `last` was the last one emitted. -/
def frameEvents (last : Option Descriptor) : List (Bytes × Descriptor) → List Event
  | [] => []
  | (x, d) :: rest =>
    (if last = some d then [] else [.descriptorChanged d]) ++ .frameReady x :: frameEvents (some d) rest

/-- R206, R154, R155: read an event list against the last emitted descriptor. A `DescriptorChanged` differs from the
descriptor before it and is directly followed by a frame that carries it; a frame without one carries the descriptor
before it; a dropped span is not empty; a `Fatal` is last. The answer is the last emitted descriptor after the list,
or none if the list breaks one of these. -/
def tracks (p : Params) (last : Option Descriptor) : List Event → Option (Option Descriptor)
  | [] => some last
  | .descriptorChanged d :: .frameReady x :: rest =>
    if last ≠ some d ∧ IsFrame p x d then tracks p (some d) rest else none
  | .descriptorChanged _ :: _ => none
  | .frameReady x :: rest =>
    match last with
    | none => none
    | some d => if IsFrame p x d then tracks p last rest else none
  | .bytesDropped x :: rest => if x = [] then none else tracks p last rest
  | [.fatal _ _] => some last
  | .fatal _ _ :: _ :: _ => none

/-- R221 to R223: what makes the extractor raise each kind, with `b` the working buffer. -/
def FatalCause (p : Params) (kind : ErrorKind) (b : Bytes) : Prop :=
  match kind with
  | .misaligned => headerSize ≤ b.length ∧ hasSyncAt b 0 = false
  | .invalidHeader => headerSize ≤ b.length ∧ hasSyncAt b 0 = true ∧ headerOf p b = none
  | .invalidFrameBoundary =>
    ∃ d, headerOf p b = some d ∧ frameSize p d ≤ b.length ∧ guardCheck p (b.drop (frameSize p d)) = .fail

/-- R35 (i). -/
def BufferEmpty (s : State) : Prop :=
  s.buffer = []

/-- R35 (ii). -/
def BufferShort (s : State) : Prop :=
  0 < s.buffer.length ∧ s.buffer.length < headerSize

/-- R35 (iii): a partial frame. -/
def BufferPartial (s : State) : Prop :=
  ∃ d, headerOf s.params s.buffer = some d ∧ d.Valid ∧ s.buffer.length < frameSize s.params d ∧
    s.estFrameSize = frameSize s.params d

/-- R35 (iv): a complete frame and the first byte of a sync. The estimate is the frame's size too (R148, log
entry 18, DEDUCED). -/
def BufferWaiting (s : State) : Prop :=
  s.params.guardMode = .waitShort ∧
    ∃ d, headerOf s.params s.buffer = some d ∧ d.Valid ∧ s.buffer.length = frameSize s.params d + 1 ∧
      byteAt s.buffer (frameSize s.params d) = some 0xFF ∧ s.estFrameSize = frameSize s.params d

/-- R35, with the resync clause in the strength that R177 gives and R205 needs: a short buffer kept under resync
begins with a candidate, not only with 0xFF (log entry 18, DEDUCED). -/
def ReadyBuffer (s : State) : Prop :=
  BufferEmpty s ∨ (BufferShort s ∧ (s.resyncEnabled = true → isCandidateAt s.buffer 0 = true)) ∨ BufferPartial s ∨
    BufferWaiting s

/-- The invariant that every step keeps. -/
structure Inv (s : State) : Prop where
  /-- R35. -/
  ready : s.fsm = .ready → ReadyBuffer s
  /-- R28. -/
  descriptor : ∀ d, s.lastDescriptor = some d → d.Valid
  /-- R46. -/
  capacity : fits s.params s.buffer.length = true
  /-- R26: the estimate is the default or the size of a valid descriptor's frame. -/
  estimate : s.estFrameSize = headerSize ∨ ∃ d : Descriptor, d.Valid ∧ s.estFrameSize = frameSize s.params d
  /-- 20_memory.md R40: the cells of the buffer are in their canonical form. -/
  memory : Memory.wf s.buffer

/-- The stream position right after each frame, the first frame starting at `start`. -/
def frameEnds (start : Nat) : List (Bytes × Descriptor) → List Nat
  | [] => []
  | (x, _) :: rest => (start + x.length) :: frameEnds (start + x.length) rest

/-- R207's proviso, for chunks that begin at stream position `start`: no delivery ends its append with a complete frame
in the buffer followed by exactly one more byte. A frame is complete in the buffer at the append when the delivery brings
its last byte: a frame that ended earlier has been emitted. -/
def keepsProviso (ends : List Nat) (start : Nat) : List Bytes → Bool
  | [] => true
  | c :: rest =>
    ends.all (fun e => !(decide (start < e) && start + c.length == e + 1)) && keepsProviso ends (start + c.length) rest

/-- Deliver chunks one after another and collect their events, as long as every delivery answers a READY state. -/
def deliverAll : List Bytes → State → Option (State × List Event)
  | [], s => some (s, [])
  | c :: rest, s =>
    match exec (.deliver c) s with
    | .next t =>
      match t.fsm, t.response with
      | .ready, .events ev =>
        match deliverAll rest t with
        | some (u, more) => some (u, ev ++ more)
        | none => none
      | _, _ => none
    | .fault _ => none
    | .refused _ => none

end Sys2Proof.Machine
end

