-- ==== Sys2Proof/Certificates/Slice0/Obligations.lean ====
section
/-! DEFINITION. The statements about the model. Every one is about all states or operands it names; `s.params`, the five
OPEN points of 00_scope.md R8, is arbitrary wherever a state is. -/

open Sys2Proof Sys2Proof.Machine

/-! ### Encodings -/

/-- 30_encoding.md R61, R79: no bit of an encoding is dropped, for every instruction. -/
def Obligations.DecodeEncodeRoundTrip : Prop :=
  ∀ i : Instr, decode (encode i) = .ok i

/-- 30_encoding.md R61, R62, R79: the encoder's image is the well-formed transactions, and each has one meaning. -/
def Obligations.EncodingsAreTheWellFormedTransactions : Prop :=
  (∀ i : Instr, (encode i).wf = true) ∧ ∀ t : Transaction, t.wf = true → ∃ i, decode t = .ok i ∧ encode i = t

/-- 30_encoding.md R62. -/
def Obligations.SyncFieldMatchesIff : Prop :=
  ∀ b0 b1 b2 b3 : Byte,
    (syncMatch (be32 b0 b1 b2 b3) = true ↔ (be32 b0 b1 b2 b3).extractLsb 31 21 = 0x7FF) ∧
      (syncMatch (be32 b0 b1 b2 b3) = true ↔ b0 = 0xFF ∧ b1 &&& 0xE0 = 0xE0) ∧
        (decode (.header b0 b1 b2 b3) = .error .syncMismatch ↔ (be32 b0 b1 b2 b3).extractLsb 31 21 ≠ 0x7FF)

/-- 30_encoding.md R79: the four opcodes, each with the operand it reads; every other opcode is no command.
That the lanes an opcode does not read may hold anything and change nothing is the model's choice (log entry 7, DESIGN
CHOICE: R79 gives no layout). -/
def Obligations.OpcodesSelectCommands : Prop :=
  ∀ o : Operands,
    decode (.command 0x01 o) = .ok (.create o.r) ∧ decode (.command 0x02 o) = .ok (.demand o.n) ∧
      decode (.command 0x03 o) = .ok (.deliver o.chunk) ∧ decode (.command 0x04 o) = .ok (.decode o.w) ∧
        ∀ op : Byte, op ∉ [0x01, 0x02, 0x03, 0x04] → decode (.command op o) = .error (.unknownOpcode op)

/-- 30_encoding.md R84: a decoded transaction reads its row's pattern under its row's mask, and no other row of its
format does. -/
def Obligations.TableRowsSplitTheWords : Prop :=
  ∀ (t : Transaction) (i : Instr), decode t = .ok i →
    t.tableBits &&& i.row.mask = i.row.pattern ∧
      ∀ j : Instr, j.row.width = i.row.width → t.tableBits &&& j.row.mask = j.row.pattern → j.row = i.row

/-- Words written out from 30_encoding.md R61 and 95_test_vectors.md L2.1. -/
def Obligations.WrittenWordsDecode : Prop :=
  decode (.header 0xFF 0xFB 0x90 0x64) = .ok (.hdrMpeg1L3 ⟨1, 9, 0, 0, 0, 1, 2, 0, 1, 0⟩) ∧
    decode (.header 0xFF 0xFF 0x14 0xC0) = .ok (.hdrMpeg1L1 ⟨1, 1, 1, 0, 0, 3, 0, 0, 0, 0⟩) ∧
      decode (.header 0xFF 0xF3 0x80 0x64) = .ok (.hdrMpeg2L3 ⟨1, 8, 0, 0, 0, 1, 2, 0, 1, 0⟩) ∧
        decode (.header 0xFF 0xEB 0x90 0x64) = .ok (.hdrInvalidVer01 1 ⟨1, 9, 0, 0, 0, 1, 2, 0, 1, 0⟩) ∧
          decode (.header 0xFF 0xF9 0x90 0x64) = .ok (.hdrInvalidMpeg1Layer00 ⟨1, 9, 0, 0, 0, 1, 2, 0, 1, 0⟩) ∧
            decode (.command 0x01 { Operands.zero with r := true }) = .ok (.create true)

/-- 00_scope.md R12, 20_memory.md R41: the header word of four bytes, and stream bit `k` of it. -/
def Obligations.HeaderWordIsBigEndian : Prop :=
  ∀ b0 b1 b2 b3 : Byte,
    (be32 b0 b1 b2 b3).toNat = b0.toNat * 2 ^ 24 + b1.toNat * 2 ^ 16 + b2.toNat * 2 ^ 8 + b3.toNat ∧
      ∀ (n k : Nat) (b : Byte), [b0, b1, b2, b3][n]? = some b → k < 8 →
        (be32 b0 b1 b2 b3).getLsbD (31 - (8 * n + k)) = b.getLsbD (7 - k)

/-! ### Field tables and the Header Decoder -/

/-- 30_encoding.md R64, R65, R71, R74: code to value, codes 0 to 3 in order. -/
def Obligations.CodeTablesAsWritten : Prop :=
  (List.range 4).map (fun c => lookupVersion (BitVec.ofNat 2 c)) = [none, none, some .mpeg2, some .mpeg1] ∧
    (List.range 4).map (fun c => lookupLayer (BitVec.ofNat 2 c)) = [none, some .III, some .II, some .I] ∧
      (List.range 4).map (fun c => lookupChannelMode (BitVec.ofNat 2 c)) =
          [.stereo, .jointStereo, .dualChannel, .mono] ∧
        [ChannelMode.stereo, .jointStereo, .dualChannel, .mono].map channelsOf = [2, 2, 2, 1] ∧
          (List.range 4).map (fun c => lookupEmphasis (BitVec.ofNat 2 c)) =
            [some .none, some .ms50_15, none, some .ccittJ17]

/-- 30_encoding.md R67, R68, R69: every column, index 0 to 15 and code 0 to 3 in order. -/
def Obligations.RateTablesAsWritten : Prop :=
  (∀ (v : Version) (l : Layer),
      (List.range 16).map (fun i => lookupBitrate v l (BitVec.ofNat 4 i)) =
        .free :: ((match v, l with
          | .mpeg1, .I => [32, 64, 96, 128, 160, 192, 224, 256, 288, 320, 352, 384, 416, 448]
          | .mpeg1, .II => [32, 48, 56, 64, 80, 96, 112, 128, 160, 192, 224, 256, 320, 384]
          | .mpeg1, .III => [32, 40, 48, 56, 64, 80, 96, 112, 128, 160, 192, 224, 256, 320]
          | .mpeg2, .I => [32, 48, 56, 64, 80, 96, 112, 128, 144, 160, 176, 192, 224, 256]
          | .mpeg2, .II => [8, 16, 24, 32, 40, 48, 56, 64, 80, 96, 112, 128, 144, 160]
          | .mpeg2, .III => [8, 16, 24, 32, 40, 48, 56, 64, 80, 96, 112, 128, 144, 160]).map BitrateEntry.kbps ++
            [.invalid])) ∧
    (List.range 4).map (fun c => lookupSampleRate .mpeg1 (BitVec.ofNat 2 c)) =
        [some 44100, some 48000, some 32000, none] ∧
      (List.range 4).map (fun c => lookupSampleRate .mpeg2 (BitVec.ofNat 2 c)) =
        [some 22050, some 24000, some 16000, none]

/-- 30_encoding.md R75: the decoder returns `invalid_header` iff one of (a) to (f) holds, and a valid descriptor for
every other word. -/
def Obligations.HeaderInvalidIff : Prop :=
  ∀ (p : Params) (w : Word),
    (decodeHeader p w = .invalidHeader ↔
        w.extractLsb 31 21 ≠ 0x7FF ∨ (w.extractLsb 20 19 = 0b00 ∨ w.extractLsb 20 19 = 0b01) ∨
          w.extractLsb 18 17 = 0b00 ∨ (w.extractLsb 15 12 = 0 ∨ w.extractLsb 15 12 = 15) ∨
            w.extractLsb 11 10 = 0b11 ∨ w.extractLsb 1 0 = 0b10) ∧
      (decodeHeader p w ≠ .invalidHeader → ∃ d, decodeHeader p w = .ok d ∧ d.Valid)

/-- 40_header_decoder.md R110, 30_encoding.md R61: all 13 fields of a decoded descriptor, from the bits of the word. -/
def Obligations.DescriptorFieldsFromBits : Prop :=
  ∀ (p : Params) (w : Word) (d : Descriptor), decodeHeader p w = .ok d →
    lookupVersion (w.extractLsb 20 19) = some d.version ∧ lookupLayer (w.extractLsb 18 17) = some d.layer ∧
      d.crcEnabled = (w.extractLsb 16 16 == p.crcEnabledBit) ∧
        lookupBitrate d.version d.layer (w.extractLsb 15 12) = .kbps d.bitrate ∧
          lookupSampleRate d.version (w.extractLsb 11 10) = some d.sampleRate ∧
            d.paddingEnabled = w.getLsbD 9 ∧ d.privateBit = w.getLsbD 8 ∧
              d.channelMode = lookupChannelMode (w.extractLsb 7 6) ∧
                d.channels = (if d.channelMode = .mono then 1 else 2) ∧ d.modeExtension = w.extractLsb 5 4 ∧
                  d.copyright = w.getLsbD 3 ∧ d.original = w.getLsbD 2 ∧
                    lookupEmphasis (w.extractLsb 1 0) = some d.emphasisMode

/-- 40_header_decoder.md R113 and R112: the worked example and the corner cases that are single words. -/
def Obligations.DecodeWorkedExamples : Prop :=
  decodeHeader Params.default 0xFFFB9064 =
      .ok ⟨.mpeg1, .III, false, 128, 44100, false, false, .jointStereo, 2, 2, false, true, .none⟩ ∧
    decodeHeader Params.default 0xFFFFFFFF = .invalidHeader ∧ decodeHeader Params.default 0x00000000 = .invalidHeader ∧
      decodeHeader Params.default 0xFFE00000 = .invalidHeader

/-- 41_frame_extractor.md R137: the complete formula, by layer and version. -/
def Obligations.FrameSizeFormula : Prop :=
  ∀ (p : Params) (d : Descriptor) (pad : Nat), pad = (if d.paddingEnabled then 1 else 0) →
    (d.layer = .I → frameSize p d = (12 * (d.bitrate * 1000) / d.sampleRate + pad) * 4) ∧
      (d.layer = .II → frameSize p d = 144 * (d.bitrate * 1000) / d.sampleRate + pad) ∧
        (d.layer = .III → d.version = .mpeg1 → frameSize p d = 144 * (d.bitrate * 1000) / d.sampleRate + pad) ∧
          (d.layer = .III → d.version = .mpeg2 → p.lsfL3Coeff = .c72 →
              frameSize p d = 72 * (d.bitrate * 1000) / d.sampleRate + pad) ∧
            (d.layer = .III → d.version = .mpeg2 → p.lsfL3Coeff = .c144 →
              frameSize p d = 144 * (d.bitrate * 1000) / d.sampleRate + pad)

/-- 41_frame_extractor.md R138: the least and the greatest frame size of each (version, layer) under the default
coefficient, both attained; over all valid descriptors, 24 to 1729 with 72 and 32 to 1729 with 144. -/
def Obligations.FrameSizeRange : Prop :=
  (∀ (p : Params), p.lsfL3Coeff = .c72 → ∀ (v : Version) (l : Layer) (lo hi : Nat),
      (lo, hi) = (match v, l with
        | .mpeg1, .I => (32, 676)
        | .mpeg1, .II => (96, 1729)
        | .mpeg1, .III => (96, 1441)
        | .mpeg2, .I => (64, 772)
        | .mpeg2, .II => (48, 1441)
        | .mpeg2, .III => (24, 721)) →
      (∀ d : Descriptor, d.Valid → d.version = v → d.layer = l → lo ≤ frameSize p d ∧ frameSize p d ≤ hi) ∧
        (∃ d : Descriptor, d.Valid ∧ d.version = v ∧ d.layer = l ∧ frameSize p d = lo) ∧
          ∃ d : Descriptor, d.Valid ∧ d.version = v ∧ d.layer = l ∧ frameSize p d = hi) ∧
    (∀ (p : Params) (d : Descriptor), d.Valid → headerSize < frameSize p d ∧ frameSize p d ≤ 1729) ∧
      ∀ (p : Params) (d : Descriptor), p.lsfL3Coeff = .c144 → d.Valid → 32 ≤ frameSize p d

/-! ### Sync test, scanner, loop states, guard -/

/-- 41_frame_extractor.md R130: the test, and that it is SyncMatch of the header word where four bytes are present. -/
def Obligations.HasSyncAtTest : Prop :=
  (∀ (b : Bytes) (i : Nat), hasSyncAt b i = true ↔
      i + 1 < b.length ∧ byteAt b i = some 0xFF ∧ ∃ y, byteAt b (i + 1) = some y ∧ y &&& 0xE0 = 0xE0) ∧
    ∀ (b0 b1 b2 b3 : Byte) (rest : Bytes),
      hasSyncAt (b0 :: b1 :: b2 :: b3 :: rest) 0 = syncMatch (be32 b0 b1 b2 b3)

/-- 42_resync.md R171. -/
def Obligations.CandidatePosition : Prop :=
  ∀ (b : Bytes) (i : Nat), isCandidateAt b i = true ↔
    i < b.length ∧ byteAt b i = some 0xFF ∧
      (i + 1 = b.length ∨ ∃ y, byteAt b (i + 1) = some y ∧ y &&& 0xE0 = 0xE0)

/-- 42_resync.md R172: `Align` cuts at the least candidate at or after `start`, or drops everything; the two parts
are the buffer. -/
def Obligations.AlignCutsAtLeastCandidate : Prop :=
  ∀ (b : Bytes) (start : Nat), start ≤ 1 →
    ∀ dropped kept : Bytes, align b start = (dropped, kept) →
      dropped ++ kept = b ∧ (start ≤ b.length → start ≤ dropped.length) ∧
        (kept ≠ [] → isCandidateAt b dropped.length = true) ∧
          ∀ i, start ≤ i → i < dropped.length → isCandidateAt b i = false

/-- 42_resync.md R177: what a resync keeps is never Misaligned. -/
def Obligations.KeptBufferIsNeverMisaligned : Prop :=
  ∀ (b : Bytes) (start : Nat) (dropped kept : Bytes), align b start = (dropped, kept) →
    (kept = [] ∨ isCandidateAt kept 0 = true) ∧ (2 ≤ kept.length → hasSyncAt kept 0 = true) ∧
      (kept.length = 1 → kept = [0xFF])

/-- 41_frame_extractor.md R140, R131, R132: the loop state of a buffer, and that HaveHeader reads the first 4 bytes
big-endian (R143). -/
def Obligations.LoopStateOfBuffer : Prop :=
  ∀ b : Memory,
    (loopState b = .empty ↔ b.length = 0) ∧ (loopState b = .needMore ↔ 0 < b.length ∧ b.length < 4) ∧
      (loopState b = .misaligned ↔ 4 ≤ b.length ∧ hasSyncAt b 0 = false) ∧
        ∀ w, loopState b = .haveHeader w ↔
          hasSyncAt b 0 = true ∧
            ∃ b0 b1 b2 b3, memRead b 0 4 = [b0, b1, b2, b3] ∧ w = be32 b0 b1 b2 b3

/-- 41_frame_extractor.md R147: when the guard passes, waits and fails. -/
def Obligations.GuardResults : Prop :=
  ∀ (p : Params) (rest : Bytes),
    (guardCheck p rest = .pass ↔ rest = [] ∨ (2 ≤ rest.length ∧ hasSyncAt rest 0 = true)) ∧
      (guardCheck p rest = .wait ↔ p.guardMode = .waitShort ∧ rest = [0xFF]) ∧
        (guardCheck p rest = .fail ↔
          (rest.length = 1 ∧ ¬(p.guardMode = .waitShort ∧ rest = [0xFF])) ∨
            (2 ≤ rest.length ∧ hasSyncAt rest 0 = false))

/-- 42_resync.md R174, 41_frame_extractor.md R149, 60_exceptions.md R226: a failure with resync enabled goes on, with
the buffer cut at the least candidate from index 1 on, exactly one nonempty `BytesDropped`, and nothing else changed. -/
def Obligations.FailureResync : Prop :=
  ∀ (kind : ErrorKind) (w : Work), w.st.resyncEnabled = true → headerSize ≤ w.st.buffer.length →
    ∃ dropped kept : Bytes, align w.st.buffer 1 = (dropped, kept) ∧ dropped ≠ [] ∧
      onFailure kind w =
        .again { st := { w.st with buffer := kept }, ev := w.ev ++ [.bytesDropped dropped] }

/-! ### The ten header rows -/

/-- 30_encoding.md R84, 40_header_decoder.md R110: stepping any header word that belongs to a row gives the result of
`Decode` on that word, with the frame size the table's note names, and changes nothing else. That a header by itself is an instruction, and
that it leaves the record unchanged (R100, R101), is log entry 6 (DESIGN CHOICE). -/
def Obligations.HeaderRowsAgreeWithDecoder : Prop :=
  ∀ (w : Word) (i : Instr) (s : State), decodeHeaderWord w = .ok i →
    exec i s =
      .next { s with
        response := .decoded (match decodeHeader s.params w with
          | .invalidHeader => .invalidHeader
          | .ok d => .ok d (frameSize s.params d)) }

/-- 40_header_decoder.md R110 for HDR_MPEG1_L1 to HDR_MPEG2_L3: where the bitrate, sample-rate and emphasis codes are
legal, the row completes in every state with its descriptor and frame size, and every state field but the result is
unchanged (R100, R101; a header as an instruction by itself is log entry 6, DESIGN CHOICE). -/
def Obligations.ValidHeaderRowsComplete : Prop :=
  ∀ (f : HdrFields) (s : State) (v : Version) (l : Layer) (i : Instr),
    (v, l, i) ∈ [(Version.mpeg1, Layer.I, Instr.hdrMpeg1L1 f), (.mpeg1, .II, .hdrMpeg1L2 f),
      (.mpeg1, .III, .hdrMpeg1L3 f), (.mpeg2, .I, .hdrMpeg2L1 f), (.mpeg2, .II, .hdrMpeg2L2 f),
      (.mpeg2, .III, .hdrMpeg2L3 f)] →
    f.brIndex ≠ 0 → f.brIndex ≠ 15 → f.srIndex ≠ 3 → f.emphCode ≠ 2 →
      ∃ d : Descriptor,
        exec i s = .next { s with response := .decoded (.ok d (frameSize s.params d)) } ∧
          d.version = v ∧ d.layer = l ∧ d.crcEnabled = (f.protBit == s.params.crcEnabledBit) ∧
            lookupBitrate v l f.brIndex = .kbps d.bitrate ∧ lookupSampleRate v f.srIndex = some d.sampleRate ∧
              d.paddingEnabled = (f.padBit == 1) ∧ d.privateBit = (f.privBit == 1) ∧
                d.channelMode = lookupChannelMode f.modeCode ∧ d.channels = channelsOf d.channelMode ∧
                  d.modeExtension = f.modeextCode ∧ d.copyright = (f.copyBit == 1) ∧
                    d.original = (f.origBit == 1) ∧ lookupEmphasis f.emphCode = some d.emphasisMode

/-- 30_encoding.md R75 (d), (e), (f) for the same six rows: an illegal bitrate, sample-rate or emphasis code gives
`invalid_header`, a result and not a fault. That a header row executes by itself and leaves the record unchanged (R100,
R101) is the model's choice (log entry 6, DESIGN CHOICE). -/
def Obligations.IllegalFieldsGiveInvalidHeader : Prop :=
  ∀ (f : HdrFields) (s : State),
    f.brIndex = 0 ∨ f.brIndex = 15 ∨ f.srIndex = 3 ∨ f.emphCode = 2 →
      ∀ i ∈ [Instr.hdrMpeg1L1 f, .hdrMpeg1L2 f, .hdrMpeg1L3 f, .hdrMpeg2L1 f, .hdrMpeg2L2 f, .hdrMpeg2L3 f],
        exec i s = .next { s with response := .decoded .invalidHeader }

/-- 30_encoding.md R75 (b), (c) for the four always-invalid rows: they complete in every state, whatever their other
fields, and every state field but the result is unchanged. That these rows execute as instructions by themselves is the
model's choice (log entry 6, DESIGN CHOICE). -/
def Obligations.InvalidHeaderRowsComplete : Prop :=
  ∀ (layer : BitVec 2) (f : HdrFields) (s : State),
    ∀ i ∈ [Instr.hdrInvalidVer00 layer f, .hdrInvalidVer01 layer f, .hdrInvalidMpeg1Layer00 f,
        .hdrInvalidMpeg2Layer00 f],
      exec i s = .next { s with response := .decoded .invalidHeader }

/-! ### CREATE, DEMAND, DECODE, refusals -/

/-- 43_host_commands.md R191: from any state, every field of the record; the parameters, the queue and the refusal
record are unchanged. The clauses on the model's own fields are the model's choice: parameters kept across CREATE log
entry 1 (DESIGN CHOICE), the queue log entry 3 (DESIGN CHOICE), the result field log entry 4 (DESIGN CHOICE), the list of
refusals log entry 5 (DEDUCED). -/
def Obligations.CreateResetsEveryField : Prop :=
  ∀ (r : Bool) (s : State),
    exec (.create r) s =
      .next { s with
        fsm := .ready
        resyncEnabled := r
        buffer := []
        lastDescriptor := none
        estFrameSize := 4
        response := .none }

/-- 43_host_commands.md R196, R197: in READY the result is the clamped formula, and nothing else changes. -/
def Obligations.DemandFormula : Prop :=
  ∀ (n : Nat) (s : State), s.fsm = .ready →
    ∃ k : Nat, exec (.demand n) s = .next { s with response := .byteCount k } ∧
      (k : Int) = max 0 ((s.estFrameSize : Int) * n - s.buffer.length + headerSize)

/-- 43_host_commands.md R211: DECODE completes in every state and changes nothing but the result. -/
def Obligations.DecodeProbeResult : Prop :=
  ∀ (w : Word) (s : State),
    (decodeHeader s.params w = .invalidHeader →
        exec (.decode w) s = .next { s with response := .decoded .invalidHeader }) ∧
      ∀ d, decodeHeader s.params w = .ok d →
        exec (.decode w) s = .next { s with response := .decoded (.ok d (frameSize s.params d)) }

/-- 43_host_commands.md R190, 60_exceptions.md R230: DEMAND and DELIVER outside READY leave every field of the record
as it was, and the refusal is recorded. That the machine goes on is the model's reading (log entry 5). -/
def Obligations.CommandsRefusedOutsideReady : Prop :=
  ∀ (s : State) (why : RefuseReason),
    (s.fsm = .uninit ∧ why = .uninit) ∨ (s.fsm = .faulted ∧ why = .faulted) →
      ∀ i : Instr, ((∃ n, i = .demand n) ∨ ∃ c, i = .deliver c) →
        exec i s = .next { s with response := .refused why, refusals := s.refusals ++ [why] }

/-- 20_memory.md R46: a DELIVER that would exceed the capacity leaves every field of the record as it was. -/
def Obligations.DeliverPastCapacityRefused : Prop :=
  ∀ (chunk : Bytes) (s : State) (cap : Nat), s.fsm = .ready → s.params.bufCap = some cap →
    cap < s.buffer.length + chunk.length →
      exec (.deliver chunk) s =
        .next { s with response := .refused .capacity, refusals := s.refusals ++ [.capacity] }

/-! ### The step -/

/-- 00_scope.md R10: a step takes the oldest issued transaction and runs the instruction it decodes to; the queue
loses that transaction and nothing is added around the instruction. -/
def Obligations.StepRunsDecodedInstruction : Prop :=
  ∀ (s : State) (t : Transaction) (rest : List Transaction) (i : Instr),
    s.hostQueue = t :: rest → decode t = .ok i → step s = exec i { s with hostQueue := rest }

/-- 30_encoding.md R84 and R75 (a), 43_host_commands.md R190: a header that matches no row gives `invalid_header`; an
unlisted opcode is refused in every `fsm`. Both are next states (log entries 5, 8). -/
def Obligations.StepOnUnencodedTransactions : Prop :=
  ∀ (s : State) (t : Transaction) (rest : List Transaction), s.hostQueue = t :: rest →
    (decode t = .error .syncMismatch →
        step s = .next { s with hostQueue := rest, response := .decoded .invalidHeader }) ∧
      ∀ op, decode t = .error (.unknownOpcode op) →
        step s =
          .next { s with
            hostQueue := rest
            response := .refused (.unknownOpcode op)
            refusals := s.refusals ++ [.unknownOpcode op] }

/-- 60_exceptions.md R238, 00_scope.md R10: with nothing issued the block keeps its state (log entry 3). -/
def Obligations.IdleBlockKeepsItsState : Prop :=
  ∀ s : State, s.hostQueue = [] → step s = .next s

/-- 30_encoding.md R84 (every command is executed or refused), 41_frame_extractor.md R153: no step of the machine
stops, from any state at all; so nothing reaches the loop's pass count (log entry 9). That a refused command is a next
state is log entry 5 (DEDUCED), and the idle step is log entry 3 (DESIGN CHOICE). -/
def Obligations.EveryStepAnswersANextState : Prop :=
  ∀ s : State, ∃ t, step s = .next t

/-- 41_frame_extractor.md R153: a pass that goes on drops at least 1 byte, and the loop ends within `len(b)` passes;
for the empty buffer the one pass is the Empty test (log entry 12). -/
def Obligations.LoopEndsWithinBufferLength : Prop :=
  (∀ w w' : Work, pass w = .again w' → w'.st.buffer.length < w.st.buffer.length) ∧
    ∀ w : Work, w.st.buffer ≠ [] → ∃ w', extract w.st.buffer.length w = some w'

/-! ### DELIVER -/

/-- 43_host_commands.md R204, 60_exceptions.md R226, 41_frame_extractor.md R142: with resync enabled a DELIVER that
fits completes and never raises Fatal: READY, no `Fatal` event, every byte in a payload or still buffered. -/
def Obligations.DeliverWithResyncCompletes : Prop :=
  ∀ (chunk : Bytes) (s : State), s.fsm = .ready → s.resyncEnabled = true →
    (∀ cap, s.params.bufCap = some cap → s.buffer.length + chunk.length ≤ cap) →
      ∃ t ev, exec (.deliver chunk) s = .next t ∧ t.fsm = .ready ∧ t.response = .events ev ∧
        (∀ e ∈ ev, e.isFatal = false) ∧ payloads ev ++ t.buffer = s.buffer ++ chunk

/-- 41_frame_extractor.md R152 (R150, R151), 95_test_vectors.md L1.1: when the buffer and the chunk together are whole
frames, the DELIVER completes, in either resync setting, with those frames in order, a `DescriptorChanged` exactly
before each frame whose descriptor differs from the one before, and an empty buffer. -/
def Obligations.DeliverOfWholeFrames : Prop :=
  ∀ (chunk : Bytes) (s : State) (fs : List (Bytes × Descriptor)), s.fsm = .ready →
    (∀ cap, s.params.bufCap = some cap → s.buffer.length + chunk.length ≤ cap) →
    (∀ x ∈ fs, IsFrame s.params x.1 x.2) → s.buffer ++ chunk = fs.flatMap Prod.fst →
      exec (.deliver chunk) s =
        .next { s with
          buffer := []
          lastDescriptor := (match fs.getLast? with
            | none => s.lastDescriptor
            | some x => some x.2)
          estFrameSize := (match fs.getLast? with
            | none => s.estFrameSize
            | some x => frameSize s.params x.2)
          response := .events (frameEvents s.lastDescriptor fs) }

/-- 41_frame_extractor.md R145: a partial frame is kept whole, in either resync setting; the estimate becomes its
size, the descriptor is unwritten, and no event is produced. -/
def Obligations.DeliverOfPartialFrame : Prop :=
  ∀ (chunk : Bytes) (s : State) (d : Descriptor), s.fsm = .ready →
    (∀ cap, s.params.bufCap = some cap → s.buffer.length + chunk.length ≤ cap) →
    headerOf s.params (s.buffer ++ chunk) = some d → (s.buffer ++ chunk).length < frameSize s.params d →
      exec (.deliver chunk) s =
        .next { s with
          buffer := s.buffer ++ chunk
          estFrameSize := frameSize s.params d
          response := .events [] }

/-- 41_frame_extractor.md R141, R132: fewer than 4 bytes wait without a fault, whatever they are, when resync is off. -/
def Obligations.DeliverOfShortBufferWaits : Prop :=
  ∀ (chunk : Bytes) (s : State), s.fsm = .ready → s.resyncEnabled = false →
    (∀ cap, s.params.bufCap = some cap → s.buffer.length + chunk.length ≤ cap) →
    (s.buffer ++ chunk).length < 4 →
      exec (.deliver chunk) s = .next { s with buffer := s.buffer ++ chunk, response := .events [] }

/-- 60_exceptions.md R221 to R224: with resync off, a cause of Fatal in the buffer after the append ends the DELIVER in
FAULTED with the one event `Fatal(kind, whole buffer)`; the descriptor and the estimate are as they were. -/
def Obligations.FatalOnTheFirstPass : Prop :=
  ∀ (chunk : Bytes) (s : State) (kind : ErrorKind), s.fsm = .ready → s.resyncEnabled = false →
    (∀ cap, s.params.bufCap = some cap → s.buffer.length + chunk.length ≤ cap) →
    FatalCause s.params kind (s.buffer ++ chunk) →
      exec (.deliver chunk) s =
        .next { s with
          fsm := .faulted
          buffer := s.buffer ++ chunk
          response := .events [.fatal kind (s.buffer ++ chunk)] }

/-- 70_reset_and_hazards.md R262, 41_frame_extractor.md R147, R148: one byte after a complete frame. Under SYNC11 with
resync off it is a Fatal; under WAIT_SHORT a 0xFF waits, in either resync setting. -/
def Obligations.OneByteAfterAFrame : Prop :=
  ∀ (chunk : Bytes) (s : State) (x : Bytes) (d : Descriptor) (b : Byte), s.fsm = .ready →
    (∀ cap, s.params.bufCap = some cap → s.buffer.length + chunk.length ≤ cap) →
    IsFrame s.params x d → s.buffer ++ chunk = x ++ [b] →
      (s.params.guardMode = .sync11 → s.resyncEnabled = false →
          exec (.deliver chunk) s =
            .next { s with
              fsm := .faulted
              buffer := x ++ [b]
              response := .events [.fatal .invalidFrameBoundary (x ++ [b])] }) ∧
        (s.params.guardMode = .waitShort → b = 0xFF →
          exec (.deliver chunk) s =
            .next { s with
              buffer := x ++ [b]
              estFrameSize := frameSize s.params d
              response := .events [] })

/-- 60_exceptions.md R224, R227: if a DELIVER ends FAULTED, resync is off, its last event is the only Fatal, carries the
whole frozen buffer, and its kind has its cause there; if it ends READY, there is no Fatal. -/
def Obligations.FatalEntry : Prop :=
  ∀ (chunk : Bytes) (s t : State) (ev : List Event), s.fsm = .ready → exec (.deliver chunk) s = .next t →
    t.response = .events ev →
      (t.fsm = .faulted → s.resyncEnabled = false ∧
          ∃ kind before, ev = before ++ [.fatal kind t.buffer] ∧ (∀ e ∈ before, e.isFatal = false) ∧
            FatalCause s.params kind t.buffer) ∧
        (t.fsm = .ready → ∀ e ∈ ev, e.isFatal = false) ∧ (t.fsm = .faulted ∨ t.fsm = .ready)

/-- 20_memory.md R48, R49: the payloads of the frames and dropped spans, in event order, followed by the buffer (after a
Fatal, the offending bytes are that buffer: FatalEntry), are the old buffer followed by the chunk. With
P_FATAL_KEEPS_PRIOR false a delivery that ends in Fatal hands over only the Fatal (R225), so it is left out here. -/
def Obligations.DeliverAccountsForEveryByte : Prop :=
  ∀ (chunk : Bytes) (s t : State) (ev : List Event), s.fsm = .ready → exec (.deliver chunk) s = .next t →
    t.response = .events ev → s.params.fatalKeepsPrior = true ∨ t.fsm = .ready →
      payloads ev ++ t.buffer = s.buffer ++ chunk

/-- 43_host_commands.md R199: what a DELIVER leaves unchanged: the parameters, the resync flag, the queue; the refusal
record when it runs; the descriptor when no frame is emitted; and the estimate unless it becomes the size of a valid
descriptor's frame. Its bytes are DeliverAccountsForEveryByte's. The queue is log
entry 3 (DESIGN CHOICE), the list of refusals log entry 5 (DEDUCED). -/
def Obligations.DeliverFrame : Prop :=
  ∀ (chunk : Bytes) (s t : State) (ev : List Event), s.fsm = .ready → exec (.deliver chunk) s = .next t →
    t.response = .events ev →
      t.params = s.params ∧ t.resyncEnabled = s.resyncEnabled ∧ t.hostQueue = s.hostQueue ∧
        t.refusals = s.refusals ∧
          (t.estFrameSize = s.estFrameSize ∨ ∃ d : Descriptor, d.Valid ∧ t.estFrameSize = frameSize s.params d) ∧
            (s.params.fatalKeepsPrior = true ∨ t.fsm = .ready → (∀ x, Event.frameReady x ∉ ev) →
              t.lastDescriptor = s.lastDescriptor)

/-- 42_resync.md R179: with resync off no `BytesDropped` is ever produced. -/
def Obligations.NoDropsWithoutResync : Prop :=
  ∀ (chunk : Bytes) (s t : State) (ev : List Event), s.fsm = .ready → s.resyncEnabled = false →
    exec (.deliver chunk) s = .next t → t.response = .events ev → ∀ e ∈ ev, e.isDrop = false

/-- 43_host_commands.md R206, 41_frame_extractor.md R151, R154, R155: the event list of a DELIVER reads correctly
against the last emitted descriptor (`tracks`), and `last_descriptor` ends as the last emitted one. -/
def Obligations.EventsTrackTheDescriptor : Prop :=
  ∀ (chunk : Bytes) (s t : State) (ev : List Event), s.fsm = .ready → exec (.deliver chunk) s = .next t →
    t.response = .events ev → s.params.fatalKeepsPrior = true ∨ t.fsm = .ready →
      tracks s.params s.lastDescriptor ev = some t.lastDescriptor

/-- 60_exceptions.md R225: `P_FATAL_KEEPS_PRIOR = false` changes only which events of a delivery that ends in Fatal are
handed over: the Fatal alone instead of all of them. -/
def Obligations.FatalKeepsPriorOnlyFiltersEvents : Prop :=
  ∀ (chunk : Bytes) (s t : State) (ev : List Event), s.fsm = .ready → s.params.fatalKeepsPrior = true →
    exec (.deliver chunk) s = .next t → t.response = .events ev →
      ∃ ev', exec (.deliver chunk) { s with params := { s.params with fatalKeepsPrior := false } } =
          .next { t with params := { s.params with fatalKeepsPrior := false }, response := .events ev' } ∧
        (t.fsm = .ready → ev' = ev) ∧
          (t.fsm = .faulted → ∃ kind, ev' = [.fatal kind t.buffer] ∧ ev.getLast? = some (.fatal kind t.buffer))

/-- 43_host_commands.md R205: in every READY state that meets the invariant an empty DELIVER emits nothing and changes
nothing but the result. -/
def Obligations.EmptyDeliverChangesNothing : Prop :=
  ∀ s : State, Inv s → s.fsm = .ready → exec (.deliver []) s = .next { s with response := .events [] }

/-- 42_resync.md R180, R173, 95_test_vectors.md L1.4: with resync on, garbage with no 0xFF ahead of a frame is one
`BytesDropped` of exactly the garbage, and the frame follows. -/
def Obligations.GarbageThenFrame : Prop :=
  ∀ (chunk : Bytes) (s : State) (g x : Bytes) (d : Descriptor), s.fsm = .ready → s.resyncEnabled = true →
    (∀ cap, s.params.bufCap = some cap → s.buffer.length + chunk.length ≤ cap) →
    g ≠ [] → (0xFF : Byte) ∉ g → IsFrame s.params x d → s.buffer ++ chunk = g ++ x →
      exec (.deliver chunk) s =
        .next { s with
          buffer := []
          lastDescriptor := some d
          estFrameSize := frameSize s.params d
          response := .events (.bytesDropped g :: frameEvents s.lastDescriptor [(x, d)]) }

/-- 43_host_commands.md R207 for two deliveries, with resync off: if the whole and the first part end without Fatal, the
second part ends in the same state with the same events in all, descriptor changes included. Under WAIT_SHORT the whole
must end with an empty buffer, as a stream of whole frames does. -/
def Obligations.SplitDeliveryGivesTheSameFrames : Prop :=
  ∀ (c1 c2 : Bytes) (s t1 t : State) (ev1 ev : List Event), s.fsm = .ready → s.resyncEnabled = false →
    s.params.guardMode = .sync11 ∨ t.buffer = [] →
    exec (.deliver (c1 ++ c2)) s = .next t → t.fsm = .ready → t.response = .events ev →
    exec (.deliver c1) s = .next t1 → t1.fsm = .ready → t1.response = .events ev1 →
      ∃ ev2, exec (.deliver c2) t1 = .next { t with response := .events ev2 } ∧ ev = ev1 ++ ev2

/-- 43_host_commands.md R207, 95_test_vectors.md L1.1: a stream of whole frames, from an empty buffer and without a
capacity, gives those frames in order for every split that R207 allows, in either resync setting: under WAIT_SHORT every
split, and under either guard mode every split that keeps R207's proviso (`keepsProviso`), as chunks of at most one byte
always do (the lemma keepsProviso_of_length_le_one). -/
def Obligations.ChunkedStreamGivesItsFrames : Prop :=
  ∀ (chunks : List Bytes) (s : State) (fs : List (Bytes × Descriptor)), s.fsm = .ready → s.buffer = [] →
    s.params.bufCap = none → s.params.guardMode = .waitShort ∨ keepsProviso (frameEnds 0 fs) 0 chunks = true →
    (∀ x ∈ fs, IsFrame s.params x.1 x.2) → chunks.flatten = fs.flatMap Prod.fst →
      ∃ t, deliverAll chunks s = some (t, frameEvents s.lastDescriptor fs) ∧ t.fsm = .ready ∧ t.buffer = []

/-! ### Invariants and whole-machine rules -/

/-- 70_reset_and_hazards.md R250, 00_scope.md R8: power-on is UNINIT with the default parameters, nothing issued and no
refusal recorded, and it meets the invariant. The other reset values are the model's choice (log entry 2) and no
clause here rests on one of them but for the invariant's. -/
def Obligations.PowerOnState : Prop :=
  State.reset.fsm = .uninit ∧
    State.reset.params = { crcEnabledBit := 0, lsfL3Coeff := .c72, guardMode := .sync11, fatalKeepsPrior := true, bufCap := none } ∧
      State.reset.hostQueue = [] ∧ State.reset.refusals = [] ∧ Inv State.reset

/-- 10_state.md R35, R28, R26, 20_memory.md R46: every step keeps the invariant. The invariant is stronger than R35 by
log entry 18 (DEDUCED): the estimate in case (iv) is R148's, and the candidate at the head of a short buffer under resync
is R177's. Its clause on memory rests on log entry 14 (DESIGN CHOICE). -/
def Obligations.EveryStepKeepsTheInvariant : Prop :=
  ∀ s t : State, Inv s → step s = .next t → Inv t

/-- 10_state.md R35: a READY state that meets the invariant is in exactly one of the four cases, and with resync on a
short buffer starts with 0xFF. The invariant assumed is stronger than R35 by log entry 18 (DEDUCED), and case (iv) here
has its estimate (R148). -/
def Obligations.ReadyBufferIsInExactlyOneCase : Prop :=
  ∀ s : State, Inv s → s.fsm = .ready →
    (BufferEmpty s ∨ BufferShort s ∨ BufferPartial s ∨ BufferWaiting s) ∧
      ¬(BufferEmpty s ∧ BufferShort s) ∧ ¬(BufferEmpty s ∧ BufferPartial s) ∧ ¬(BufferEmpty s ∧ BufferWaiting s) ∧
        ¬(BufferShort s ∧ BufferPartial s) ∧ ¬(BufferShort s ∧ BufferWaiting s) ∧
          ¬(BufferPartial s ∧ BufferWaiting s) ∧
            (s.resyncEnabled = true → BufferShort s → byteAt s.buffer 0 = some 0xFF)

/-- 10_state.md R36, 60_exceptions.md R224: outside READY no command's result depends on the resync flag, the buffer, the
descriptor or the estimate. -/
def Obligations.FieldsUnreadableOutsideReady : Prop :=
  ∀ (i : Instr) (s s' : State) (r : Bool) (b : Memory) (last : Option Descriptor) (est : Nat), s.fsm ≠ .ready →
    exec i s = .next s' →
      ∃ t', exec i { s with resyncEnabled := r, buffer := b, lastDescriptor := last, estFrameSize := est } = .next t' ∧
        t'.response = s'.response ∧ t'.fsm = s'.fsm ∧ t'.refusals = s'.refusals

/-- 20_memory.md R50: the results and the next record depend only on the record the last command left and on the
command: what was issued after it, answered before it or refused before it does not matter. The
queue is log entry 3, the result field log entry 4 (both DESIGN CHOICE), the list of refusals log entry 5 (DEDUCED). -/
def Obligations.ResultsDependOnlyOnTheRecord : Prop :=
  ∀ (i : Instr) (s s' : State) (q : List Transaction) (old : Response) (past : List RefuseReason),
    exec i s = .next s' →
      ∃ new, s'.refusals = s.refusals ++ new ∧
        exec i { s with hostQueue := q, response := old, refusals := past } =
          .next { s' with hostQueue := q, refusals := past ++ new }

/-- 10_state.md R25, 60_exceptions.md R231: the lifecycle moves only by CREATE, to READY, and by a DELIVER in READY
that ends in Fatal, to FAULTED; so only CREATE leaves FAULTED or UNINIT. -/
def Obligations.LifecycleMoves : Prop :=
  ∀ (i : Instr) (s t : State), exec i s = .next t →
    t.fsm = s.fsm ∨ (∃ r, i = .create r ∧ t.fsm = .ready) ∨
      ∃ c, i = .deliver c ∧ s.fsm = .ready ∧ t.fsm = .faulted

/-- 00_scope.md R8, 10_state.md R23, 60_exceptions.md R230: a step never changes the parameters, keeps every recorded
refusal, takes at most one transaction, and changes the resync flag only when it runs CREATE. Parameters that are kept
across CREATE too are log entry 1 (DESIGN CHOICE: R8 fixes them from one CREATE to the next). The queue, from which a
step takes the oldest transaction where 00_scope.md R10 has the host issue commands one at a time, is log entry 3 (DESIGN
CHOICE). The list of refusals is log entry 5 (DEDUCED). -/
def Obligations.StepKeepsParametersAndRecord : Prop :=
  ∀ s t : State, step s = .next t →
    t.params = s.params ∧ s.refusals <+: t.refusals ∧ t.hostQueue = s.hostQueue.tail ∧
      (t.resyncEnabled ≠ s.resyncEnabled →
        ∃ x r, s.hostQueue.head? = some x ∧ decode x = .ok (.create r) ∧ t.resyncEnabled = r)

/-- 10_state.md R24, R26, R32: who writes `last_descriptor` and `est_frame_size`: CREATE clears `has_descriptor`; only a
DELIVER that emits a frame sets it; the estimate is written only by CREATE and by a DELIVER. -/
def Obligations.DescriptorAndEstimateWriters : Prop :=
  ∀ (i : Instr) (s t : State), exec i s = .next t →
    (hasDescriptor s = true → hasDescriptor t = false → ∃ r, i = .create r) ∧
      (hasDescriptor s = false → hasDescriptor t = true →
        ∃ c, i = .deliver c ∧ ∃ ev, t.response = .events ev ∧
          (s.params.fatalKeepsPrior = true ∨ t.fsm = .ready → ∃ x, Event.frameReady x ∈ ev)) ∧
        (t.estFrameSize ≠ s.estFrameSize → (∃ r, i = .create r) ∨ ∃ c, i = .deliver c) ∧
          (faulted s = false → faulted t = true → ∃ c, i = .deliver c) ∧
            (faulted s = true → faulted t = false → ∃ r, i = .create r)

/-- 30_encoding.md R80 to R82: the tags and codes, and that the port fields of a valid descriptor carry its numbers
unchanged within the stated bounds, so that no two valid descriptors share their port fields. The port widths of the
version and layer codes are log entry 19 (DESIGN CHOICE). -/
def Obligations.PortFieldsAreFaithful : Prop :=
  (∀ d : Descriptor, d.Valid →
      d.toPort.bitrate.toNat = d.bitrate ∧ d.bitrate ≤ 448 ∧ d.toPort.sampleRate.toNat = d.sampleRate ∧
        d.sampleRate ≤ 48000 ∧ d.toPort.channels.toNat = d.channels) ∧
    (∀ d e : Descriptor, d.Valid → e.Valid → d.toPort = e.toPort → d = e) ∧
      (∀ (d : Descriptor) (x : Bytes) (k : ErrorKind),
        (Event.descriptorChanged d).tag = 0 ∧ (Event.frameReady x).tag = 1 ∧ (Event.bytesDropped x).tag = 2 ∧
          (Event.fatal k x).tag = 3) ∧
        ErrorKind.invalidHeader.code = 1 ∧ ErrorKind.invalidFrameBoundary.code = 2 ∧ ErrorKind.misaligned.code = 3
end

