-- ==== Sys2Proof/Laws/Decode.lean ====
section
/-! SUPPORT. The bit fields of a packed header and the bytes of a word. -/

namespace Sys2Proof

theorem be32_wordByte (w : Word) : be32 (wordByte w 0) (wordByte w 1) (wordByte w 2) (wordByte w 3) = w := by
  apply BitVec.eq_of_getLsbD_eq
  intro i hi
  simp only [be32, wordByte, BitVec.getLsbD_append, BitVec.getLsbD_extractLsb']
  interval_cases i <;> simp

theorem wordByte_be32 (b0 b1 b2 b3 : Byte) :
    wordByte (be32 b0 b1 b2 b3) 0 = b0 ∧ wordByte (be32 b0 b1 b2 b3) 1 = b1 ∧
      wordByte (be32 b0 b1 b2 b3) 2 = b2 ∧ wordByte (be32 b0 b1 b2 b3) 3 = b3 := by
  refine ⟨?_, ?_, ?_, ?_⟩ <;>
    (apply BitVec.eq_of_getLsbD_eq
     intro i hi
     simp only [be32, wordByte, BitVec.getLsbD_append, BitVec.getLsbD_extractLsb']
     interval_cases i <;> simp)

theorem packHeader_getLsbD (ver layer : BitVec 2) (f : HdrFields) (i : Nat) :
    (packHeader ver layer f).getLsbD i =
      (((((((((((((0x7FF#11 ++ ver) ++ layer) ++ f.protBit) ++ f.brIndex) ++ f.srIndex) ++ f.padBit) ++ f.privBit) ++
        f.modeCode) ++ f.modeextCode) ++ f.copyBit) ++ f.origBit) ++ f.emphCode).getLsbD i) := rfl

theorem syncField_packHeader (ver layer : BitVec 2) (f : HdrFields) : syncField (packHeader ver layer f) = 0x7FF := by
  apply BitVec.eq_of_getLsbD_eq
  intro i hi
  simp only [syncField, BitVec.getLsbD_extractLsb', packHeader_getLsbD, BitVec.getLsbD_append]
  interval_cases i <;> simp

theorem verCode_packHeader (ver layer : BitVec 2) (f : HdrFields) : verCode (packHeader ver layer f) = ver := by
  apply BitVec.eq_of_getLsbD_eq
  intro i hi
  simp only [verCode, BitVec.getLsbD_extractLsb', packHeader_getLsbD, BitVec.getLsbD_append]
  interval_cases i <;> simp

theorem layerCode_packHeader (ver layer : BitVec 2) (f : HdrFields) : layerCode (packHeader ver layer f) = layer := by
  apply BitVec.eq_of_getLsbD_eq
  intro i hi
  simp only [layerCode, BitVec.getLsbD_extractLsb', packHeader_getLsbD, BitVec.getLsbD_append]
  interval_cases i <;> simp

end Sys2Proof
end

