-- ==== Sys2Proof/Laws/Header.lean ====
section
/-! SUPPORT. The header lookups: what each can answer, said once. -/

namespace Sys2Proof.Machine

theorem lookupBitrate_kbps_mem (v : Version) (l : Layer) (index : BitVec 4) (n : Nat)
    (h : lookupBitrate v l index = .kbps n) : n ∈ bitrateColumn v l := by
  unfold lookupBitrate at h
  split at h
  · cases h
  · split at h
    · cases h
      exact List.mem_of_getElem? ‹_›
    · cases h

theorem lookupSampleRate_mem (v : Version) (index : BitVec 2) (n : Nat) (h : lookupSampleRate v index = some n) :
    n ∈ sampleRateColumn v :=
  List.mem_of_getElem? h

theorem bitrateColumn_pos (v : Version) (l : Layer) : ∀ n ∈ bitrateColumn v l, 8 ≤ n ∧ n ≤ 448 := by
  cases v <;> cases l <;> decide

theorem sampleRateColumn_pos (v : Version) : ∀ n ∈ sampleRateColumn v, 16000 ≤ n ∧ n ≤ 48000 := by
  cases v <;> decide

/-- R110 from the bitrate lookup on: it answers a descriptor exactly when the three lookups succeed. -/
theorem decodeFields_ok_iff (p : Params) (v : Version) (l : Layer) (f : HdrFields) (d : Descriptor) :
    decodeFields p v l f = .ok d ↔
      ∃ kbps hz em, lookupBitrate v l f.brIndex = .kbps kbps ∧ lookupSampleRate v f.srIndex = some hz ∧
        lookupEmphasis f.emphCode = some em ∧ d = buildDescriptor p v l kbps hz em f := by
  unfold decodeFields
  constructor
  · intro h
    split at h <;> try cases h
    split at h <;> try cases h
    split at h <;> cases h
    exact ⟨_, _, _, ‹_›, ‹_›, ‹_›, rfl⟩
  · rintro ⟨kbps, hz, em, hb, hs, he, rfl⟩
    simp [hb, hs, he]

/-- R110: what a decoded header says of its word. -/
theorem decodeHeader_ok_iff (p : Params) (w : Word) (d : Descriptor) :
    decodeHeader p w = .ok d ↔
      syncMatch w = true ∧ ∃ v l, lookupVersion (verCode w) = some v ∧ lookupLayer (layerCode w) = some l ∧
        decodeFields p v l (rawFields w) = .ok d := by
  unfold decodeHeader
  constructor
  · intro h
    split at h
    · cases h
    · split at h
      · cases h
      · split at h
        · cases h
        · exact ⟨by simp_all, _, _, ‹_›, ‹_›, h⟩
  · rintro ⟨hs, v, l, hv, hl, h⟩
    simp [hs, hv, hl, h]

/-- R28: a built descriptor is valid when its numbers come from the tables. -/
theorem buildDescriptor_valid (p : Params) (v : Version) (l : Layer) (kbps hz : Nat) (em : Emphasis) (f : HdrFields)
    (hb : kbps ∈ bitrateColumn v l) (hs : hz ∈ sampleRateColumn v) : (buildDescriptor p v l kbps hz em f).Valid :=
  ⟨hb, hs, rfl⟩

theorem decodeHeader_ok_valid (p : Params) (w : Word) (d : Descriptor) (h : decodeHeader p w = .ok d) : d.Valid := by
  obtain ⟨-, v, l, -, -, h⟩ := (decodeHeader_ok_iff p w d).1 h
  obtain ⟨kbps, hz, em, hb, hs, -, rfl⟩ := (decodeFields_ok_iff p v l _ d).1 h
  exact buildDescriptor_valid p v l kbps hz em _ (lookupBitrate_kbps_mem _ _ _ _ hb) (lookupSampleRate_mem _ _ _ hs)

/-- The header at the front of a buffer: at least four bytes, the sync pattern, and a header that decodes. -/
theorem headerOf_eq_some_iff (p : Params) (b : Bytes) (d : Descriptor) :
    headerOf p b = some d ↔
      ∃ b0 b1 b2 b3 rest, b = b0 :: b1 :: b2 :: b3 :: rest ∧ hasSyncAt b 0 = true ∧
        decodeHeader p (be32 b0 b1 b2 b3) = .ok d := by
  match b with
  | [] => simp [headerOf, loopState]
  | [_] => simp [headerOf, loopState]
  | [_, _] => simp [headerOf, loopState]
  | [_, _, _] => simp [headerOf, loopState]
  | b0 :: b1 :: b2 :: b3 :: rest =>
    by_cases hs : hasSyncAt (b0 :: b1 :: b2 :: b3 :: rest) 0 = true
    · cases hd : decodeHeader p (be32 b0 b1 b2 b3) <;> simp [headerOf, loopState, hs, hd]
    · simp [headerOf, loopState, hs]

theorem headerOf_valid (p : Params) (b : Bytes) (d : Descriptor) (h : headerOf p b = some d) : d.Valid := by
  obtain ⟨b0, b1, b2, b3, -, -, -, hd⟩ := (headerOf_eq_some_iff p b d).1 h
  exact decodeHeader_ok_valid p _ d hd

theorem headerOf_length (p : Params) (b : Bytes) (d : Descriptor) (h : headerOf p b = some d) : 4 ≤ b.length := by
  obtain ⟨b0, b1, b2, b3, rest, rfl, -⟩ := (headerOf_eq_some_iff p b d).1 h
  simp

/-- The header at the front does not depend on what follows its four bytes. -/
theorem headerOf_append (p : Params) (b c : Bytes) (d : Descriptor) (h : headerOf p b = some d) :
    headerOf p (b ++ c) = some d := by
  obtain ⟨b0, b1, b2, b3, rest, rfl, hs, hd⟩ := (headerOf_eq_some_iff p b d).1 h
  exact (headerOf_eq_some_iff p _ d).2 ⟨b0, b1, b2, b3, rest ++ c, by simp, by simpa [hasSyncAt] using hs, hd⟩

/-- The frame size depends on the descriptor's version, layer, numbers and padding only. -/
theorem frameSize_congr (p : Params) (d e : Descriptor) (hv : d.version = e.version) (hl : d.layer = e.layer)
    (hb : d.bitrate = e.bitrate) (hs : d.sampleRate = e.sampleRate) (hp : d.paddingEnabled = e.paddingEnabled) :
    frameSize p d = frameSize p e := by
  simp [frameSize, hv, hl, hb, hs, hp]

/-- 24 bytes are the least frame (41_frame_extractor.md R138), whatever the coefficient. -/
theorem frameSize_ge (p : Params) (d : Descriptor) (h : d.Valid) : 24 ≤ frameSize p d := by
  obtain ⟨hb, hs, -⟩ := h
  have key : ∀ (v : Version) (l : Layer), ∀ b ∈ bitrateColumn v l, ∀ r ∈ sampleRateColumn v,
      24 ≤ (match l, v with
        | .I, _ => 12 * (b * 1000) / r * 4
        | .II, _ => 144 * (b * 1000) / r
        | .III, .mpeg1 => 144 * (b * 1000) / r
        | .III, .mpeg2 => 72 * (b * 1000) / r) := by
    intro v l
    cases v <;> cases l <;> decide
  have := key d.version d.layer d.bitrate hb d.sampleRate hs
  have hc : 72 * (d.bitrate * 1000) / d.sampleRate ≤ lsfCoeff p * (d.bitrate * 1000) / d.sampleRate := by
    apply Nat.div_le_div_right
    apply Nat.mul_le_mul_right
    unfold lsfCoeff
    split <;> omega
  unfold frameSize
  cases hl : d.layer <;> cases hv : d.version <;> simp only [hl, hv] at this ⊢ <;> split <;> omega

end Sys2Proof.Machine
end

