-- ==== Sys2Proof/Laws/State.lean ====
section
/-! SUPPORT. What each named operation does to each field of the state, one lemma per field per update, true by `rfl`. -/

namespace Sys2Proof.Machine

section respondFields
variable (r : Response) (s : State)

@[simp] theorem respond_params : (respond r s).params = s.params := rfl
@[simp] theorem respond_fsm : (respond r s).fsm = s.fsm := rfl
@[simp] theorem respond_resyncEnabled : (respond r s).resyncEnabled = s.resyncEnabled := rfl
@[simp] theorem respond_buffer : (respond r s).buffer = s.buffer := rfl
@[simp] theorem respond_lastDescriptor : (respond r s).lastDescriptor = s.lastDescriptor := rfl
@[simp] theorem respond_estFrameSize : (respond r s).estFrameSize = s.estFrameSize := rfl
@[simp] theorem respond_hostQueue : (respond r s).hostQueue = s.hostQueue := rfl
@[simp] theorem respond_response : (respond r s).response = r := rfl
@[simp] theorem respond_refusals : (respond r s).refusals = s.refusals := rfl

end respondFields

section refuseFields
variable (why : RefuseReason) (s : State)

@[simp] theorem refuse_params : (refuse why s).params = s.params := rfl
@[simp] theorem refuse_fsm : (refuse why s).fsm = s.fsm := rfl
@[simp] theorem refuse_resyncEnabled : (refuse why s).resyncEnabled = s.resyncEnabled := rfl
@[simp] theorem refuse_buffer : (refuse why s).buffer = s.buffer := rfl
@[simp] theorem refuse_lastDescriptor : (refuse why s).lastDescriptor = s.lastDescriptor := rfl
@[simp] theorem refuse_estFrameSize : (refuse why s).estFrameSize = s.estFrameSize := rfl
@[simp] theorem refuse_hostQueue : (refuse why s).hostQueue = s.hostQueue := rfl
@[simp] theorem refuse_response : (refuse why s).response = .refused why := rfl
@[simp] theorem refuse_refusals : (refuse why s).refusals = s.refusals ++ [why] := rfl

end refuseFields

section createdFields
variable (r : Bool) (s : State)

@[simp] theorem created_params : (created r s).params = s.params := rfl
@[simp] theorem created_fsm : (created r s).fsm = .ready := rfl
@[simp] theorem created_resyncEnabled : (created r s).resyncEnabled = r := rfl
@[simp] theorem created_buffer : (created r s).buffer = [] := rfl
@[simp] theorem created_lastDescriptor : (created r s).lastDescriptor = none := rfl
@[simp] theorem created_estFrameSize : (created r s).estFrameSize = headerSize := rfl
@[simp] theorem created_hostQueue : (created r s).hostQueue = s.hostQueue := rfl
@[simp] theorem created_response : (created r s).response = .none := rfl
@[simp] theorem created_refusals : (created r s).refusals = s.refusals := rfl

end createdFields

section issueFirstFields
variable (t : Transaction) (s : State)

@[simp] theorem issueFirst_params : (issueFirst t s).params = s.params := rfl
@[simp] theorem issueFirst_fsm : (issueFirst t s).fsm = s.fsm := rfl
@[simp] theorem issueFirst_resyncEnabled : (issueFirst t s).resyncEnabled = s.resyncEnabled := rfl
@[simp] theorem issueFirst_buffer : (issueFirst t s).buffer = s.buffer := rfl
@[simp] theorem issueFirst_lastDescriptor : (issueFirst t s).lastDescriptor = s.lastDescriptor := rfl
@[simp] theorem issueFirst_estFrameSize : (issueFirst t s).estFrameSize = s.estFrameSize := rfl
@[simp] theorem issueFirst_hostQueue : (issueFirst t s).hostQueue = t :: s.hostQueue := rfl
@[simp] theorem issueFirst_response : (issueFirst t s).response = s.response := rfl
@[simp] theorem issueFirst_refusals : (issueFirst t s).refusals = s.refusals := rfl

end issueFirstFields

section begin_stFields
variable (s : State)

@[simp] theorem begin_st_params : ((begin s).st).params = s.params := rfl
@[simp] theorem begin_st_fsm : ((begin s).st).fsm = s.fsm := rfl
@[simp] theorem begin_st_resyncEnabled : ((begin s).st).resyncEnabled = s.resyncEnabled := rfl
@[simp] theorem begin_st_buffer : ((begin s).st).buffer = s.buffer := rfl
@[simp] theorem begin_st_lastDescriptor : ((begin s).st).lastDescriptor = s.lastDescriptor := rfl
@[simp] theorem begin_st_estFrameSize : ((begin s).st).estFrameSize = s.estFrameSize := rfl
@[simp] theorem begin_st_hostQueue : ((begin s).st).hostQueue = s.hostQueue := rfl
@[simp] theorem begin_st_response : ((begin s).st).response = s.response := rfl
@[simp] theorem begin_st_refusals : ((begin s).st).refusals = s.refusals := rfl
@[simp] theorem begin_ev : (begin s).ev = [] := rfl

end begin_stFields

section emitFields
variable (e : Event) (w : Work)

@[simp] theorem emit_params : (emit e w).st.params = w.st.params := rfl
@[simp] theorem emit_fsm : (emit e w).st.fsm = w.st.fsm := rfl
@[simp] theorem emit_resyncEnabled : (emit e w).st.resyncEnabled = w.st.resyncEnabled := rfl
@[simp] theorem emit_buffer : (emit e w).st.buffer = w.st.buffer := rfl
@[simp] theorem emit_lastDescriptor : (emit e w).st.lastDescriptor = w.st.lastDescriptor := rfl
@[simp] theorem emit_estFrameSize : (emit e w).st.estFrameSize = w.st.estFrameSize := rfl
@[simp] theorem emit_hostQueue : (emit e w).st.hostQueue = w.st.hostQueue := rfl
@[simp] theorem emit_response : (emit e w).st.response = w.st.response := rfl
@[simp] theorem emit_refusals : (emit e w).st.refusals = w.st.refusals := rfl
@[simp] theorem emit_ev : (emit e w).ev = w.ev ++ [e] := rfl

end emitFields

section setBufferFields
variable (m : Memory) (w : Work)

@[simp] theorem setBuffer_params : (setBuffer m w).st.params = w.st.params := rfl
@[simp] theorem setBuffer_fsm : (setBuffer m w).st.fsm = w.st.fsm := rfl
@[simp] theorem setBuffer_resyncEnabled : (setBuffer m w).st.resyncEnabled = w.st.resyncEnabled := rfl
@[simp] theorem setBuffer_buffer : (setBuffer m w).st.buffer = m := rfl
@[simp] theorem setBuffer_lastDescriptor : (setBuffer m w).st.lastDescriptor = w.st.lastDescriptor := rfl
@[simp] theorem setBuffer_estFrameSize : (setBuffer m w).st.estFrameSize = w.st.estFrameSize := rfl
@[simp] theorem setBuffer_hostQueue : (setBuffer m w).st.hostQueue = w.st.hostQueue := rfl
@[simp] theorem setBuffer_response : (setBuffer m w).st.response = w.st.response := rfl
@[simp] theorem setBuffer_refusals : (setBuffer m w).st.refusals = w.st.refusals := rfl
@[simp] theorem setBuffer_ev : (setBuffer m w).ev = w.ev := rfl

end setBufferFields

section appendFields
variable (c : Bytes) (w : Work)

@[simp] theorem append_params : (append c w).st.params = w.st.params := rfl
@[simp] theorem append_fsm : (append c w).st.fsm = w.st.fsm := rfl
@[simp] theorem append_resyncEnabled : (append c w).st.resyncEnabled = w.st.resyncEnabled := rfl
@[simp] theorem append_buffer : (append c w).st.buffer = w.st.buffer ++ c := rfl
@[simp] theorem append_lastDescriptor : (append c w).st.lastDescriptor = w.st.lastDescriptor := rfl
@[simp] theorem append_estFrameSize : (append c w).st.estFrameSize = w.st.estFrameSize := rfl
@[simp] theorem append_hostQueue : (append c w).st.hostQueue = w.st.hostQueue := rfl
@[simp] theorem append_response : (append c w).st.response = w.st.response := rfl
@[simp] theorem append_refusals : (append c w).st.refusals = w.st.refusals := rfl
@[simp] theorem append_ev : (append c w).ev = w.ev := rfl

end appendFields

section dropFields
variable (k : Nat) (w : Work)

@[simp] theorem drop_params : (drop k w).st.params = w.st.params := rfl
@[simp] theorem drop_fsm : (drop k w).st.fsm = w.st.fsm := rfl
@[simp] theorem drop_resyncEnabled : (drop k w).st.resyncEnabled = w.st.resyncEnabled := rfl
@[simp] theorem drop_buffer : (drop k w).st.buffer = w.st.buffer.drop k := rfl
@[simp] theorem drop_lastDescriptor : (drop k w).st.lastDescriptor = w.st.lastDescriptor := rfl
@[simp] theorem drop_estFrameSize : (drop k w).st.estFrameSize = w.st.estFrameSize := rfl
@[simp] theorem drop_hostQueue : (drop k w).st.hostQueue = w.st.hostQueue := rfl
@[simp] theorem drop_response : (drop k w).st.response = w.st.response := rfl
@[simp] theorem drop_refusals : (drop k w).st.refusals = w.st.refusals := rfl
@[simp] theorem drop_ev : (drop k w).ev = w.ev := rfl

end dropFields

section setEstFields
variable (n : Nat) (w : Work)

@[simp] theorem setEst_params : (setEst n w).st.params = w.st.params := rfl
@[simp] theorem setEst_fsm : (setEst n w).st.fsm = w.st.fsm := rfl
@[simp] theorem setEst_resyncEnabled : (setEst n w).st.resyncEnabled = w.st.resyncEnabled := rfl
@[simp] theorem setEst_buffer : (setEst n w).st.buffer = w.st.buffer := rfl
@[simp] theorem setEst_lastDescriptor : (setEst n w).st.lastDescriptor = w.st.lastDescriptor := rfl
@[simp] theorem setEst_estFrameSize : (setEst n w).st.estFrameSize = n := rfl
@[simp] theorem setEst_hostQueue : (setEst n w).st.hostQueue = w.st.hostQueue := rfl
@[simp] theorem setEst_response : (setEst n w).st.response = w.st.response := rfl
@[simp] theorem setEst_refusals : (setEst n w).st.refusals = w.st.refusals := rfl
@[simp] theorem setEst_ev : (setEst n w).ev = w.ev := rfl

end setEstFields

section setDescriptorFields
variable (d : Descriptor) (w : Work)

@[simp] theorem setDescriptor_params : (setDescriptor d w).st.params = w.st.params := rfl
@[simp] theorem setDescriptor_fsm : (setDescriptor d w).st.fsm = w.st.fsm := rfl
@[simp] theorem setDescriptor_resyncEnabled : (setDescriptor d w).st.resyncEnabled = w.st.resyncEnabled := rfl
@[simp] theorem setDescriptor_buffer : (setDescriptor d w).st.buffer = w.st.buffer := rfl
@[simp] theorem setDescriptor_lastDescriptor : (setDescriptor d w).st.lastDescriptor = some d := rfl
@[simp] theorem setDescriptor_estFrameSize : (setDescriptor d w).st.estFrameSize = w.st.estFrameSize := rfl
@[simp] theorem setDescriptor_hostQueue : (setDescriptor d w).st.hostQueue = w.st.hostQueue := rfl
@[simp] theorem setDescriptor_response : (setDescriptor d w).st.response = w.st.response := rfl
@[simp] theorem setDescriptor_refusals : (setDescriptor d w).st.refusals = w.st.refusals := rfl
@[simp] theorem setDescriptor_ev : (setDescriptor d w).ev = w.ev := rfl

end setDescriptorFields

section raiseFatalFields
variable (kind : ErrorKind) (w : Work)

@[simp] theorem raiseFatal_params : (raiseFatal kind w).st.params = w.st.params := rfl
@[simp] theorem raiseFatal_fsm : (raiseFatal kind w).st.fsm = .faulted := rfl
@[simp] theorem raiseFatal_resyncEnabled : (raiseFatal kind w).st.resyncEnabled = w.st.resyncEnabled := rfl
@[simp] theorem raiseFatal_buffer : (raiseFatal kind w).st.buffer = w.st.buffer := rfl
@[simp] theorem raiseFatal_lastDescriptor : (raiseFatal kind w).st.lastDescriptor = w.st.lastDescriptor := rfl
@[simp] theorem raiseFatal_estFrameSize : (raiseFatal kind w).st.estFrameSize = w.st.estFrameSize := rfl
@[simp] theorem raiseFatal_hostQueue : (raiseFatal kind w).st.hostQueue = w.st.hostQueue := rfl
@[simp] theorem raiseFatal_response : (raiseFatal kind w).st.response = w.st.response := rfl
@[simp] theorem raiseFatal_refusals : (raiseFatal kind w).st.refusals = w.st.refusals := rfl
@[simp] theorem raiseFatal_ev : (raiseFatal kind w).ev = w.ev ++ [.fatal kind w.st.buffer] := rfl

end raiseFatalFields

section resyncFields
variable (w : Work)

@[simp] theorem resync_params : (resync w).st.params = w.st.params := rfl
@[simp] theorem resync_fsm : (resync w).st.fsm = w.st.fsm := rfl
@[simp] theorem resync_resyncEnabled : (resync w).st.resyncEnabled = w.st.resyncEnabled := rfl
@[simp] theorem resync_buffer : (resync w).st.buffer = (align w.st.buffer 1).2 := rfl
@[simp] theorem resync_lastDescriptor : (resync w).st.lastDescriptor = w.st.lastDescriptor := rfl
@[simp] theorem resync_estFrameSize : (resync w).st.estFrameSize = w.st.estFrameSize := rfl
@[simp] theorem resync_hostQueue : (resync w).st.hostQueue = w.st.hostQueue := rfl
@[simp] theorem resync_response : (resync w).st.response = w.st.response := rfl
@[simp] theorem resync_refusals : (resync w).st.refusals = w.st.refusals := rfl
@[simp] theorem resync_ev : (resync w).ev = w.ev ++ [.bytesDropped (align w.st.buffer 1).1] := rfl

end resyncFields

section commitFields
variable (w : Work)

@[simp] theorem commit_params : (commit w).params = w.st.params := rfl
@[simp] theorem commit_fsm : (commit w).fsm = w.st.fsm := rfl
@[simp] theorem commit_resyncEnabled : (commit w).resyncEnabled = w.st.resyncEnabled := rfl
@[simp] theorem commit_buffer : (commit w).buffer = w.st.buffer := rfl
@[simp] theorem commit_lastDescriptor : (commit w).lastDescriptor = w.st.lastDescriptor := rfl
@[simp] theorem commit_estFrameSize : (commit w).estFrameSize = w.st.estFrameSize := rfl
@[simp] theorem commit_hostQueue : (commit w).hostQueue = w.st.hostQueue := rfl
@[simp] theorem commit_response : (commit w).response = .events (handedOver w) := rfl
@[simp] theorem commit_refusals : (commit w).refusals = w.st.refusals := rfl

end commitFields

end Sys2Proof.Machine
end

