-- ==== Sys2Proof/Laws/Memory.lean ====
section
/-! SUPPORT. The buffer as a memory: its cells are always in canonical form, equal memories are equal cells, and what
each memory operation does to the read of one byte and to the capacity. -/

namespace Sys2Proof.Machine

theorem zipIdx_index_ge (m : Memory) (k : Nat) : ∀ c ∈ m.zipIdx k, k ≤ c.2 := by
  intro c hc
  exact (List.mem_zipIdx hc).1

theorem cells_pairwise_from (m : Memory) (k : Nat) :
    ((m.zipIdx k).map fun c => (c.2, c.1)).Pairwise fun a b : Nat × Byte => a.1 < b.1 := by
  induction m generalizing k with
  | nil => simp
  | cons b rest ih =>
    simp only [List.zipIdx_cons, List.map_cons, List.pairwise_cons]
    refine ⟨fun c hc => ?_, ih (k + 1)⟩
    obtain ⟨e, he, rfl⟩ := List.mem_map.1 hc
    exact zipIdx_index_ge rest (k + 1) e he

/-- Every memory is in the canonical form, so every memory operation keeps it. -/
theorem memory_wf (m : Memory) : Memory.wf m :=
  cells_pairwise_from m 0

theorem append_wf (c : Bytes) (w : Work) : Memory.wf (append c w).st.buffer :=
  memory_wf _

theorem drop_wf (k : Nat) (w : Work) : Memory.wf (drop k w).st.buffer :=
  memory_wf _

theorem setBuffer_wf (m : Memory) (w : Work) : Memory.wf (setBuffer m w).st.buffer :=
  memory_wf _

theorem reset_memory_wf : Memory.wf State.reset.buffer :=
  memory_wf _

/-- The bytes of the cells are the memory, so equal cells are equal memories. -/
theorem cells_bytes (m : Memory) : (Memory.cells m).map Prod.snd = m := by
  simp [Memory.cells, List.map_map, Function.comp_def, List.zipIdx_map_fst]

theorem cells_injective (m n : Memory) (h : Memory.cells m = Memory.cells n) : m = n := by
  rw [← cells_bytes m, h, cells_bytes]

/-- Read after Append: the old bytes keep their index, the chunk's follow. -/
theorem byteAt_append (m : Memory) (c : Bytes) (i : Nat) :
    byteAt (m ++ c) i = if i < m.length then byteAt m i else byteAt c (i - m.length) := by
  unfold byteAt
  split
  · exact List.getElem?_append_left ‹_›
  · exact List.getElem?_append_right (by omega)

/-- Read after Drop: every index moves down. -/
theorem byteAt_drop (m : Memory) (k i : Nat) : byteAt (m.drop k) i = byteAt m (k + i) := by
  simp [byteAt]

theorem byteAt_none_iff (m : Memory) (i : Nat) : byteAt m i = none ↔ m.length ≤ i := by
  simp [byteAt]

/-- MemRead under its precondition gives exactly the bytes asked for (00_scope.md R13). -/
theorem memRead_length (m : Memory) (i n : Nat) (h : i + n ≤ m.length) : (memRead m i n).length = n := by
  simp [memRead]
  omega

theorem memRead_byte (m : Memory) (i n k : Nat) (h : k < n) : (memRead m i n)[k]? = byteAt m (i + k) := by
  simp [memRead, byteAt, h]

/-- A frame slice and the rest are the buffer (41_frame_extractor.md R146). -/
theorem memRead_append_drop (m : Memory) (n : Nat) : memRead m 0 n ++ m.drop n = m := by
  simp [memRead]

theorem fits_mono (p : Params) (m n : Nat) (h : m ≤ n) (hn : fits p n = true) : fits p m = true := by
  unfold fits at *
  split at hn <;> simp_all
  omega

theorem fits_iff (p : Params) (n : Nat) : fits p n = true ↔ ∀ cap, p.bufCap = some cap → n ≤ cap := by
  unfold fits
  split <;> simp_all

end Sys2Proof.Machine
end

