-- ==== Sys2Proof/Laws/Resync.lean ====
section
/-! SUPPORT. The sync test, the scan and the two aligns, each with one lemma that says everything it can do. -/

namespace Sys2Proof.Machine

theorem isCandidateAt_drop (b : Bytes) (k i : Nat) : isCandidateAt (b.drop k) i = isCandidateAt b (k + i) := by
  simp [isCandidateAt, Nat.add_assoc]

theorem hasSyncAt_drop (b : Bytes) (k i : Nat) : hasSyncAt (b.drop k) i = hasSyncAt b (k + i) := by
  simp [hasSyncAt, Nat.add_assoc]

/-- The sync test is unchanged by bytes appended behind it. -/
theorem hasSyncAt_append (b c : Bytes) (i : Nat) (h : i + 1 < b.length) : hasSyncAt (b ++ c) i = hasSyncAt b i := by
  unfold hasSyncAt
  rw [List.getElem?_append_left (by omega), List.getElem?_append_left h]

theorem hasSyncAt_candidate (b : Bytes) (i : Nat) (h : hasSyncAt b i = true) : isCandidateAt b i = true := by
  unfold hasSyncAt isCandidateAt at *
  split at h <;> simp_all

/-- R171 with the next byte present is the 11-bit test. -/
theorem isCandidateAt_eq_hasSyncAt (b : Bytes) (i : Nat) (h : i + 1 < b.length) :
    isCandidateAt b i = hasSyncAt b i := by
  unfold isCandidateAt hasSyncAt
  rw [List.getElem?_eq_getElem h, List.getElem?_eq_getElem (by omega : i < b.length)]

theorem scan_le_length (b : Bytes) : scan b ≤ b.length := by
  induction b with
  | nil => simp [scan]
  | cons x rest ih =>
    rw [scan, List.length_cons]
    split <;> omega

/-- The scan stops at a candidate, or at the end. -/
theorem scan_candidate (b : Bytes) (h : scan b < b.length) : isCandidateAt b (scan b) = true := by
  induction b with
  | nil => simp at h
  | cons x rest ih =>
    rw [scan] at h ⊢
    split
    · assumption
    · rename_i hx
      rw [if_neg hx] at h
      have := ih (by simpa using h)
      rw [Nat.add_comm (scan rest) 1, ← isCandidateAt_drop (x :: rest) 1]
      simpa using this

/-- No candidate stands before the scan's stop. -/
theorem scan_least (b : Bytes) (i : Nat) (h : i < scan b) : isCandidateAt b i = false := by
  induction b generalizing i with
  | nil => simp [scan] at h
  | cons x rest ih =>
    rw [scan] at h
    split at h
    · omega
    · cases i with
      | zero => simpa using ‹¬isCandidateAt (x :: rest) 0 = true›
      | succ n =>
        rw [← ih n (by omega), Nat.add_comm n 1, ← isCandidateAt_drop (x :: rest) 1 n, List.drop_one, List.tail_cons]

theorem scan_of_candidate (b : Bytes) (h : isCandidateAt b 0 = true) : scan b = 0 := by
  cases b with
  | nil => rfl
  | cons x rest => simp [scan, h]

/-- The two parts of an align are the buffer. -/
theorem align_append (b : Bytes) (start : Nat) : (align b start).1 ++ (align b start).2 = b := by
  simp [align]

/-- A buffer that begins with a candidate is left as it is by the proactive align (R173). -/
theorem align_zero_of_candidate (b : Bytes) (h : isCandidateAt b 0 = true) : align b 0 = ([], b) := by
  simp [align, alignAt, scan_of_candidate b h]

/-- R173: the proactive align, by cases. -/
theorem proactiveAlign_cases (w : Work) :
    (w.st.resyncEnabled = false ∧ proactiveAlign w = w) ∨
      (w.st.resyncEnabled = true ∧ (align w.st.buffer 0).1 = [] ∧
        proactiveAlign w = setBuffer (align w.st.buffer 0).2 w) ∨
        (w.st.resyncEnabled = true ∧ (align w.st.buffer 0).1 ≠ [] ∧
          proactiveAlign w =
            setBuffer (align w.st.buffer 0).2 (emit (.bytesDropped (align w.st.buffer 0).1) w)) := by
  unfold proactiveAlign
  cases h : w.st.resyncEnabled
  · simp
  · by_cases hd : (align w.st.buffer 0).1 = []
    · simp [hd]
    · simp [hd, List.length_pos_iff]

end Sys2Proof.Machine
end

