-- ==== Sys2Proof/Laws/Extractor.lean ====
section
/-! SUPPORT. The extractor: one lemma that says everything a pass can do, and the induction over the loop said once. -/

namespace Sys2Proof.Machine

/-- R147: the guard's result from the bytes after the frame. -/
theorem guardCheck_cases (p : Params) (rest : Bytes) :
    (rest = [] ∧ guardCheck p rest = .pass) ∨
      (∃ x, rest = [x] ∧ p.guardMode = .waitShort ∧ x = 0xFF ∧ guardCheck p rest = .wait) ∨
        (∃ x, rest = [x] ∧ ¬(p.guardMode = .waitShort ∧ x = 0xFF) ∧ guardCheck p rest = .fail) ∨
          (2 ≤ rest.length ∧ hasSyncAt rest 0 = true ∧ guardCheck p rest = .pass) ∨
            (2 ≤ rest.length ∧ hasSyncAt rest 0 = false ∧ guardCheck p rest = .fail) := by
  match rest with
  | [] => simp [guardCheck]
  | [x] =>
    by_cases h : p.guardMode = .waitShort ∧ x = 0xFF
    · exact .inr (.inl ⟨x, rfl, h.1, h.2, by simp [guardCheck, h]⟩)
    · exact .inr (.inr (.inl ⟨x, rfl, h, by simp only [guardCheck, if_neg h]⟩))
  | x :: y :: more => cases h : hasSyncAt (x :: y :: more) 0 <;> simp [guardCheck, h]

/-- R140: the loop state of a buffer, by cases. -/
theorem loopState_cases (b : Memory) :
    (b = [] ∧ loopState b = .empty) ∨ (0 < b.length ∧ b.length < 4 ∧ loopState b = .needMore) ∨
      (4 ≤ b.length ∧ hasSyncAt b 0 = false ∧ loopState b = .misaligned) ∨
        ∃ b0 b1 b2 b3 rest, b = b0 :: b1 :: b2 :: b3 :: rest ∧ hasSyncAt b 0 = true ∧
          loopState b = .haveHeader (be32 b0 b1 b2 b3) := by
  match b with
  | [] => simp [loopState]
  | [_] => simp [loopState]
  | [_, _] => simp [loopState]
  | [_, _, _] => simp [loopState]
  | b0 :: b1 :: b2 :: b3 :: rest =>
    cases h : hasSyncAt (b0 :: b1 :: b2 :: b3 :: rest) 0 <;> simp [loopState, h]

/-- R149: a failure either ends the DELIVER or resyncs. -/
theorem onFailure_cases (kind : ErrorKind) (w : Work) :
    (w.st.resyncEnabled = false ∧ onFailure kind w = .stop (raiseFatal kind w)) ∨
      (w.st.resyncEnabled = true ∧ onFailure kind w = .again (resync w)) := by
  unfold onFailure
  cases w.st.resyncEnabled <;> simp

/-- R152: everything one pass can do. -/
theorem pass_cases (w : Work) :
    (w.st.buffer = [] ∧ pass w = .stop w) ∨
      (0 < w.st.buffer.length ∧ w.st.buffer.length < 4 ∧ pass w = .stop w) ∨
      (4 ≤ w.st.buffer.length ∧ hasSyncAt w.st.buffer 0 = false ∧ pass w = .stop (raiseFatal .misaligned w)) ∨
      (4 ≤ w.st.buffer.length ∧ hasSyncAt w.st.buffer 0 = true ∧ headerOf w.st.params w.st.buffer = none ∧
        pass w = onFailure .invalidHeader w) ∨
      ∃ d, headerOf w.st.params w.st.buffer = some d ∧
        ((w.st.buffer.length < frameSize w.st.params d ∧ pass w = .stop (setEst (frameSize w.st.params d) w)) ∨
          (frameSize w.st.params d ≤ w.st.buffer.length ∧
            guardCheck w.st.params (w.st.buffer.drop (frameSize w.st.params d)) = .wait ∧
              pass w = .stop (setEst (frameSize w.st.params d) w)) ∨
          (frameSize w.st.params d ≤ w.st.buffer.length ∧
            guardCheck w.st.params (w.st.buffer.drop (frameSize w.st.params d)) = .fail ∧
              pass w = onFailure .invalidFrameBoundary w) ∨
          (frameSize w.st.params d ≤ w.st.buffer.length ∧
            guardCheck w.st.params (w.st.buffer.drop (frameSize w.st.params d)) = .pass ∧
              pass w = .again (emitFrame d (frameSize w.st.params d) w))) := by
  rcases loopState_cases w.st.buffer with ⟨h, hl⟩ | ⟨h1, h2, hl⟩ | ⟨h1, h2, hl⟩ | ⟨b0, b1, b2, b3, rest, hb, hs, hl⟩
  · exact .inl ⟨h, by simp [pass, hl]⟩
  · exact .inr (.inl ⟨h1, h2, by simp [pass, hl]⟩)
  · exact .inr (.inr (.inl ⟨h1, h2, by simp [pass, hl]⟩))
  · refine .inr (.inr (.inr ?_))
    have h4 : 4 ≤ w.st.buffer.length := by rw [hb]; simp
    cases hd : decodeHeader w.st.params (be32 b0 b1 b2 b3) with
    | invalidHeader => exact .inl ⟨h4, hs, by simp [headerOf, hl, hd], by simp [pass, hl, hd]⟩
    | ok d =>
      refine .inr ⟨d, by simp [headerOf, hl, hd], ?_⟩
      have hp : pass w = framePass d w := by simp [pass, hl, hd]
      rw [hp]
      unfold framePass
      by_cases hlt : w.st.buffer.length < frameSize w.st.params d
      · exact .inl ⟨hlt, by simp [hlt]⟩
      · refine .inr ?_
        have hge : frameSize w.st.params d ≤ w.st.buffer.length := by omega
        cases hg : guardCheck w.st.params (w.st.buffer.drop (frameSize w.st.params d)) <;> simp [hlt, hg, hge]

/-- What an announced descriptor leaves unchanged (R151). -/
theorem announce_frame (d : Descriptor) (w : Work) :
    (announce d w).st = { w.st with lastDescriptor := some d } ∧
      (announce d w).ev = w.ev ++ (if w.st.lastDescriptor = some d then [] else [.descriptorChanged d]) := by
  unfold announce
  split
  · rename_i h
    exact ⟨by rw [← h], by simp⟩
  · exact ⟨rfl, rfl⟩

/-- R150, R151: the working copy after a frame is emitted, every field. -/
theorem emitFrame_eq (d : Descriptor) (fs : Nat) (w : Work) :
    emitFrame d fs w =
      { st := { w.st with
          buffer := w.st.buffer.drop fs
          lastDescriptor := some d
          estFrameSize := fs }
        ev := w.ev ++ (if w.st.lastDescriptor = some d then [] else [.descriptorChanged d]) ++
          [.frameReady (memRead w.st.buffer 0 fs)] } := by
  obtain ⟨h1, h2⟩ := announce_frame d w
  simp [emitFrame, drop, setBuffer, setEst, emit, h1, h2]

/-- The loop, one pass at a time. -/
theorem extract_succ (n : Nat) (w : Work) :
    extract (n + 1) w = (match pass w with
      | .again w' => extract n w'
      | .stop w' => some w') := rfl

/-- The induction over the loop, said once: what holds of the working copy at entry and is kept by every pass that
goes on, gives at the end whatever every pass that stops gives. -/
theorem extract_induction {P Q : Work → Prop} (again : ∀ w w', P w → pass w = .again w' → P w')
    (stop : ∀ w w', P w → pass w = .stop w' → Q w') (n : Nat) (w r : Work) (hP : P w)
    (h : extract n w = some r) : Q r := by
  induction n generalizing w with
  | zero => cases h
  | succ n ih =>
    rw [extract_succ] at h
    cases hp : pass w with
    | again v =>
      rw [hp] at h
      exact ih v (again w v hP hp) h
    | stop v =>
      rw [hp] at h
      cases h
      exact stop w _ hP hp

/-- More passes than needed change nothing. -/
theorem extract_more (n k : Nat) (w r : Work) (h : extract n w = some r) : extract (n + k) w = some r := by
  induction n generalizing w with
  | zero => cases h
  | succ n ih =>
    rw [show n + 1 + k = n + k + 1 by omega, extract_succ]
    rw [extract_succ] at h
    cases hp : pass w with
    | again w' =>
      rw [hp] at h
      exact ih w' h
    | stop w' =>
      rw [hp] at h
      exact h

end Sys2Proof.Machine
end

