-- ==== Sys2Proof/Laws/HostCommand.lean ====
section
/-! SUPPORT. The commands and the step: what each can answer, said once, so that no proof unfolds them. -/

namespace Sys2Proof.Machine

theorem whenReady_ready (s : State) (run : Host.Outcome State Fault Refusal) (h : s.fsm = .ready) :
    whenReady s run = run := by
  simp [whenReady, h]

theorem whenReady_uninit (s : State) (run : Host.Outcome State Fault Refusal) (h : s.fsm = .uninit) :
    whenReady s run = .next (refuse .uninit s) := by
  simp [whenReady, h]

theorem whenReady_faulted (s : State) (run : Host.Outcome State Fault Refusal) (h : s.fsm = .faulted) :
    whenReady s run = .next (refuse .faulted s) := by
  simp [whenReady, h]

/-- R204: if a DELIVER answers a next state, it was refused, or it is the committed result of the loop. -/
theorem execDeliver_next (chunk : Bytes) (s t : State) (h : execDeliver chunk s = .next t) :
    (s.fsm = .uninit ∧ t = refuse .uninit s) ∨ (s.fsm = .faulted ∧ t = refuse .faulted s) ∨
      (s.fsm = .ready ∧ fits s.params (s.buffer.length + chunk.length) = false ∧ t = refuse .capacity s) ∨
        (s.fsm = .ready ∧ fits s.params (s.buffer.length + chunk.length) = true ∧
          ∃ w, extract ((deliverStart chunk s).st.buffer.length + 1) (deliverStart chunk s) = some w ∧
            t = commit w) := by
  unfold execDeliver at h
  cases hf : s.fsm
  · rw [whenReady_uninit s _ hf] at h
    cases h
    simp
  · rw [whenReady_ready s _ hf] at h
    cases hc : fits s.params (s.buffer.length + chunk.length)
    · simp only [hc] at h
      cases h
      simp
    · simp only [hc, if_true, deliverRun] at h
      split at h <;> cases h
      simp_all
  · rw [whenReady_faulted s _ hf] at h
    cases h
    simp

/-- The other direction, for a DELIVER that runs. -/
theorem execDeliver_ready (chunk : Bytes) (s : State) (w : Work) (hf : s.fsm = .ready)
    (hc : fits s.params (s.buffer.length + chunk.length) = true)
    (h : extract ((deliverStart chunk s).st.buffer.length + 1) (deliverStart chunk s) = some w) :
    execDeliver chunk s = .next (commit w) := by
  simp [execDeliver, whenReady_ready s _ hf, hc, deliverRun, h]

/-- R200, R201: the working copy the loop starts from. -/
theorem deliverStart_frame (chunk : Bytes) (s : State) :
    (deliverStart chunk s).st =
      { s with buffer := (if s.resyncEnabled then (align (s.buffer ++ chunk) 0).2 else s.buffer ++ chunk) } := by
  unfold deliverStart proactiveAlign
  simp only [append_resyncEnabled, begin_st_resyncEnabled]
  by_cases h : s.resyncEnabled = true
  · simp only [h, if_true]
    split <;> simp only [append, setBuffer, emit, begin, h]
  · simp only [Bool.not_eq_true] at h
    simp [append, setBuffer, begin, h]

/-- The events a DELIVER has produced before the loop: at most one dropped span (R173). -/
theorem deliverStart_ev (chunk : Bytes) (s : State) :
    (deliverStart chunk s).ev =
      (if s.resyncEnabled ∧ (align (s.buffer ++ chunk) 0).1 ≠ [] then
        [.bytesDropped (align (s.buffer ++ chunk) 0).1] else []) := by
  rcases proactiveAlign_cases (append chunk (begin s)) with ⟨h, e⟩ | ⟨h, hd, e⟩ | ⟨h, hd, e⟩ <;>
    simp_all [deliverStart]

/-- The step, by what the host has issued. -/
theorem step_cases (s : State) :
    (s.hostQueue = [] ∧ step s = .next s) ∨
      ∃ x rest, s.hostQueue = x :: rest ∧
        ((∃ i, decode x = .ok i ∧ step s = exec i { s with hostQueue := rest }) ∨
          ∃ e, decode x = .error e ∧ step s = .next (rejected e { s with hostQueue := rest })) := by
  cases hq : s.hostQueue with
  | nil => exact .inl ⟨rfl, by simp [step, fetch, hq]⟩
  | cons x rest =>
    refine .inr ⟨x, rest, rfl, ?_⟩
    cases hd : decode x with
    | ok i => exact .inl ⟨i, rfl, by simp [step, fetch, hq, hd]⟩
    | error e => exact .inr ⟨e, rfl, by simp [step, fetch, hq, hd]⟩

/-- A table word issued ahead of the queue is what the next step runs. -/
theorem step_withFetchWord (s : State) (nbits w : Nat) (i : Instr) (h : decodeTableWord nbits w = some i) :
    step (s.withFetchWord nbits w) = exec i s := by
  unfold decodeTableWord at h
  split at h
  · cases h
    simp [step, fetch, State.withFetchWord, issueFirst, ‹decode _ = _›]
  · cases h

/-! ### The proviso of R207 -/

@[simp] theorem keepsProviso_nil (ends : List Nat) (start : Nat) : keepsProviso ends start [] = true := rfl

theorem keepsProviso_cons (ends : List Nat) (start : Nat) (c : Bytes) (rest : List Bytes) :
    keepsProviso ends start (c :: rest) = true ↔
      (∀ e ∈ ends, start < e → start + c.length ≠ e + 1) ∧ keepsProviso ends (start + c.length) rest = true := by
  simp [keepsProviso, imp_iff_not_or]

/-- R207: one-byte-at-a-time delivery always keeps the proviso. -/
theorem keepsProviso_of_length_le_one (ends : List Nat) (start : Nat) (chunks : List Bytes)
    (h : ∀ c ∈ chunks, c.length ≤ 1) : keepsProviso ends start chunks = true := by
  induction chunks generalizing start with
  | nil => rfl
  | cons c rest ih =>
    obtain ⟨hc, hrest⟩ := List.forall_mem_cons.mp h
    exact (keepsProviso_cons ..).mpr ⟨fun e _ _ => by omega, ih _ hrest⟩

end Sys2Proof.Machine
end

