-- ==== Sys2Proof/Laws/PerInstr.lean ====
section
/-! SUPPORT. Statements about every instruction as syntax, one lemma per constructor. -/

namespace Sys2Proof

theorem tableBits_headerTransaction (w : Word) : (headerTransaction w).tableBits = w.toNat := by
  simp [headerTransaction, Transaction.tableBits, be32_wordByte]

end Sys2Proof

namespace Sys2Proof.Laws.TableRow

/-- 30_encoding.md R84: the bits of an instruction's encoding read its row's pattern under its row's mask. -/
def Statement (i : Instr) : Prop :=
  (encode i).tableBits &&& i.row.mask = i.row.pattern

theorem hdrRow (ver layer : BitVec 2) (f : HdrFields) (mask pattern : Word)
    (h : packHeader ver layer f &&& mask = pattern) :
    (headerTransaction (packHeader ver layer f)).tableBits &&& mask.toNat = pattern.toNat := by
  rw [tableBits_headerTransaction, ← BitVec.toNat_and, h]

theorem packHeader_mask (ver layer : BitVec 2) (f : HdrFields) :
    packHeader ver layer f &&& 0xFFFE0000 = packHeader ver layer ⟨0, 0, 0, 0, 0, 0, 0, 0, 0, 0⟩ := by
  apply BitVec.eq_of_getLsbD_eq
  intro i hi
  simp only [BitVec.getLsbD_and, packHeader_getLsbD, BitVec.getLsbD_append]
  interval_cases i <;> simp

theorem packHeader_verMask (ver layer : BitVec 2) (f : HdrFields) :
    packHeader ver layer f &&& 0xFFF80000 = packHeader ver 0 ⟨0, 0, 0, 0, 0, 0, 0, 0, 0, 0⟩ := by
  apply BitVec.eq_of_getLsbD_eq
  intro i hi
  simp only [BitVec.getLsbD_and, packHeader_getLsbD, BitVec.getLsbD_append]
  interval_cases i <;> simp

theorem hdrMpeg1L1 (f : HdrFields) : Statement (.hdrMpeg1L1 f) :=
  hdrRow _ _ f 0xFFFE0000 0xFFFE0000 ((packHeader_mask _ _ f).trans (by decide))

theorem hdrMpeg1L2 (f : HdrFields) : Statement (.hdrMpeg1L2 f) :=
  hdrRow _ _ f 0xFFFE0000 0xFFFC0000 ((packHeader_mask _ _ f).trans (by decide))

theorem hdrMpeg1L3 (f : HdrFields) : Statement (.hdrMpeg1L3 f) :=
  hdrRow _ _ f 0xFFFE0000 0xFFFA0000 ((packHeader_mask _ _ f).trans (by decide))

theorem hdrMpeg2L1 (f : HdrFields) : Statement (.hdrMpeg2L1 f) :=
  hdrRow _ _ f 0xFFFE0000 0xFFF60000 ((packHeader_mask _ _ f).trans (by decide))

theorem hdrMpeg2L2 (f : HdrFields) : Statement (.hdrMpeg2L2 f) :=
  hdrRow _ _ f 0xFFFE0000 0xFFF40000 ((packHeader_mask _ _ f).trans (by decide))

theorem hdrMpeg2L3 (f : HdrFields) : Statement (.hdrMpeg2L3 f) :=
  hdrRow _ _ f 0xFFFE0000 0xFFF20000 ((packHeader_mask _ _ f).trans (by decide))

theorem hdrInvalidVer00 (layerCode : BitVec 2) (f : HdrFields) : Statement (.hdrInvalidVer00 layerCode f) :=
  hdrRow _ _ f 0xFFF80000 0xFFE00000 ((packHeader_verMask _ _ f).trans (by decide))

theorem hdrInvalidVer01 (layerCode : BitVec 2) (f : HdrFields) : Statement (.hdrInvalidVer01 layerCode f) :=
  hdrRow _ _ f 0xFFF80000 0xFFE80000 ((packHeader_verMask _ _ f).trans (by decide))

theorem hdrInvalidMpeg1Layer00 (f : HdrFields) : Statement (.hdrInvalidMpeg1Layer00 f) :=
  hdrRow _ _ f 0xFFFE0000 0xFFF80000 ((packHeader_mask _ _ f).trans (by decide))

theorem hdrInvalidMpeg2Layer00 (f : HdrFields) : Statement (.hdrInvalidMpeg2Layer00 f) :=
  hdrRow _ _ f 0xFFFE0000 0xFFF00000 ((packHeader_mask _ _ f).trans (by decide))

theorem create (r : Bool) : Statement (.create r) := by
  show ((0x01 : Byte).toNat &&& 0xFF) = 0x01
  decide

theorem demand (n : Nat) : Statement (.demand n) := by
  show ((0x02 : Byte).toNat &&& 0xFF) = 0x02
  decide

theorem deliver (chunk : Bytes) : Statement (.deliver chunk) := by
  show ((0x03 : Byte).toNat &&& 0xFF) = 0x03
  decide

theorem decode (w : Word) : Statement (.decode w) := by
  show ((0x04 : Byte).toNat &&& 0xFF) = 0x04
  decide

end Sys2Proof.Laws.TableRow
end

