-- ==== Sys2Proof/Machine/Assembler.lean ====
section
/-! DEFINITION. Host programs as text, one command per line (30_encoding.md R83), assembled into the instructions they
stand for. What R83 leaves to the reader of a program is fixed in log entry 13 (DESIGN CHOICE). -/

namespace Sys2Proof.Machine.Assembler

/-- A token of a line: a maximal run of characters with no blank. -/
abbrev Token := List Char

/-- Split at a separator, empty parts included. -/
def splitAt (sep : Char) : List Char → List (List Char)
  | [] => [[]]
  | c :: rest =>
    match splitAt sep rest with
    | [] => [[]]
    | first :: more => if c = sep then [] :: first :: more else (c :: first) :: more

/-- R83: `;` starts a comment. -/
def stripComment (line : List Char) : List Char :=
  line.takeWhile (· ≠ ';')

/-- The tokens of a line. -/
def tokens (line : List Char) : List Token :=
  (splitAt ' ' (stripComment line)).filter (· ≠ [])

/-- The digits in order of value. -/
def numerals : List Char :=
  "0123456789abcdef".toList

/-- The value of a digit in a base of at most sixteen: its place among the numerals. A letter may be of either case
(log entry 13). -/
def digitValue (base : Nat) (c : Char) : Option Nat :=
  (numerals.take base).idxOf? c.toLower

/-- The number that digits write in a base, most significant first, after what `acc` already holds. -/
def number (base : Nat) (acc : Nat) (ds : List Char) : Option Nat :=
  ds.foldlM (fun n c => (digitValue base c).map (n * base + ·)) acc

/-- A decimal number of at least one digit. -/
def decimal (t : Token) : Option Nat :=
  if t = [] then none else number 10 0 t

/-- R83: a two-digit hex byte. -/
def hexByte (t : Token) : Option Byte :=
  if t.length = 2 then (number 16 0 t).map (BitVec.ofNat 8) else none

/-- R83: `0x` and eight hex digits. -/
def hexWord (t : Token) : Option Word :=
  match t with
  | '0' :: 'x' :: ds => if ds.length = 8 then (number 16 0 ds).map (BitVec.ofNat 32) else none
  | _ => none

/-- The names bound so far, the latest first. -/
abbrev Names := List (Token × Bytes)

/-- R83: one item of `<bytes>`: a hex byte, `XX×k`, or a bound name. -/
def item (names : Names) (t : Token) : Option Bytes :=
  match hexByte t with
  | some b => some [b]
  | none =>
    match splitAt '×' t with
    | [x, k] => (hexByte x).bind fun b => (decimal k).map fun n => List.replicate n b
    | _ => names.lookup t

/-- The tokens between the `++` of an expression. -/
def operands : List Token → List (List Token)
  | [] => [[]]
  | t :: rest =>
    match operands rest with
    | [] => [[]]
    | first :: more => if t = ['+', '+'] then [] :: first :: more else (t :: first) :: more

/-- A space-separated list of items. -/
def items (names : Names) : List Token → Option Bytes
  | [] => some []
  | t :: rest => (item names t).bind fun a => (items names rest).map fun b => a ++ b

/-- Operands joined by `++`, none of them empty. -/
def joined (names : Names) : List (List Token) → Option Bytes
  | [] => some []
  | ts :: rest =>
    if ts = [] then none
    else (items names ts).bind fun a => (joined names rest).map fun b => a ++ b

/-- R83: `<bytes>`; no token at all is the empty sequence. -/
def bytesExpr (names : Names) (ts : List Token) : Option Bytes :=
  if ts = [] then some [] else joined names (operands ts)

/-- What a line is. -/
inductive Line where
  | blank
  | bind (name : Token) (value : Bytes)
  | command (i : Instr)
deriving DecidableEq, Repr

/-- R83: one line, from its tokens. -/
def parseLine (names : Names) (ts : List Token) : Option Line :=
  match ts with
  | [] => some .blank
  | t :: rest =>
    if rest.head? = some [':', '='] then (bytesExpr names rest.tail).map (.bind t)
    else if t = "CREATE".toList then
      if rest = ["r=0".toList] then some (.command (.create false))
      else if rest = ["r=1".toList] then some (.command (.create true))
      else none
    else if t = "DEMAND".toList then
      match rest with
      | [n] => (decimal n).map fun k => .command (.demand k)
      | _ => none
    else if t = "DELIVER".toList then (bytesExpr names rest).map fun b => .command (.deliver b)
    else if t = "DECODE".toList then
      match rest with
      | [w] => (hexWord w).map fun k => .command (.decode k)
      | _ => none
    else none

/-- Lines in order, each seeing the names bound above it. -/
def assembleLines (names : Names) : List (List Char) → Option (List Instr)
  | [] => some []
  | l :: rest =>
    match parseLine names (tokens l) with
    | none => none
    | some .blank => assembleLines names rest
    | some (.bind n v) => assembleLines ((n, v) :: names) rest
    | some (.command i) => (assembleLines names rest).map (i :: ·)

/-- R83: the instructions of a program text; none if a line is malformed. -/
def assemble (text : List Char) : Option (List Instr) :=
  assembleLines [] (splitAt '\n' text)

/-- Put a program into the host's queue: a program comes to run this way (log entry 10). -/
def loadProgram (is : List Instr) (s : State) : State :=
  { s with hostQueue := s.hostQueue ++ is.map encode }

end Sys2Proof.Machine.Assembler
end

