-- ==== Sys2Proof/Tests/Slice0.lean ====
section
/-! SUPPORT. The model's own tests. Expected values are written out from the spec: 95_test_vectors.md (cited by vector)
and the encodings of 30_encoding.md. The witnesses show, for each statement with hypotheses, values that meet them. -/

namespace Sys2Proof.Tests

open Sys2Proof Sys2Proof.Machine

/-! ### Helpers -/

/-- The next state of an outcome. -/
def nextOf : Host.Outcome State Fault Refusal → Option State
  | .next s => some s
  | .fault _ => none
  | .refused _ => none

theorem eq_next_of {o : Host.Outcome State Fault Refusal} {t : State} (h : nextOf o = some t) : o = .next t := by
  cases o <;> simp_all [nextOf]

/-- A READY state with a resync flag and a buffer, otherwise as CREATE leaves it. -/
def ready (r : Bool) (b : Bytes) : State :=
  { State.reset with fsm := .ready, resyncEnabled := r, buffer := b }

/-- The same under WAIT_SHORT. -/
def readyWait (r : Bool) (b : Bytes) : State :=
  { ready r b with params := { Params.default with guardMode := .waitShort } }

/-- Frame `A` of 95_test_vectors.md. -/
def frameA : Bytes := [0xFF, 0xFF, 0x14, 0xC0] ++ List.replicate 28 0x00

/-- Frame `A'` of 95_test_vectors.md. -/
def frameA' : Bytes := [0xFF, 0xFF, 0x16, 0xC0] ++ List.replicate 32 0x00

/-- Descriptor `dA` of 95_test_vectors.md. -/
def descA : Descriptor :=
  ⟨.mpeg1, .I, false, 32, 48000, false, false, .mono, 1, 0, false, false, .none⟩

/-- Descriptor of `A'`. -/
def descA' : Descriptor := { descA with paddingEnabled := true }

/-- Fields of header word 0xFFFB9064 below its layer code. -/
def fields9064 : HdrFields := ⟨1, 9, 0, 0, 0, 1, 2, 0, 1, 0⟩

/-- A state projected to what a vector of L2.5 gives. -/
structure EndState where
  fsm : Fsm
  resyncEnabled : Bool
  buffer : Bytes
  lastDescriptor : Option Descriptor
  estFrameSize : Nat
  response : Response
deriving DecidableEq, Repr

/-- The projected state after an outcome. -/
def endState (o : Host.Outcome State Fault Refusal) : Option EndState :=
  (nextOf o).map fun s => ⟨s.fsm, s.resyncEnabled, s.buffer, s.lastDescriptor, s.estFrameSize, s.response⟩

/-- The default has no capacity, so every chunk fits. -/
theorem ready_fits (r : Bool) (b chunk : Bytes) :
    ∀ cap, (ready r b).params.bufCap = some cap → (ready r b).buffer.length + chunk.length ≤ cap :=
  fun _ h => nomatch h

theorem readyWait_fits (r : Bool) (b chunk : Bytes) :
    ∀ cap, (readyWait r b).params.bufCap = some cap → (readyWait r b).buffer.length + chunk.length ≤ cap :=
  fun _ h => nomatch h

/-! ### Well-formed transactions: an ill-formed term for each check -/

theorem test_wf_refuses_first_sync_byte : (Transaction.header 0xFE 0xFB 0x90 0x64).wf = false := by decide
theorem test_wf_refuses_second_sync_byte : (Transaction.header 0xFF 0xDF 0x90 0x64).wf = false := by decide
theorem test_wf_refuses_unknown_opcode : (Transaction.command 0x05 Operands.zero).wf = false := by decide
theorem test_wf_refuses_unread_r : (Transaction.command 0x02 { Operands.zero with r := true }).wf = false := by decide
theorem test_wf_refuses_unread_n : (Transaction.command 0x01 { Operands.zero with n := 1 }).wf = false := by decide
theorem test_wf_refuses_unread_chunk : (Transaction.command 0x04 { Operands.zero with chunk := [0] }).wf = false := by
  decide
theorem test_wf_refuses_unread_w : (Transaction.command 0x03 { Operands.zero with w := 1 }).wf = false := by decide
theorem test_wf_accepts : (Transaction.command 0x03 { Operands.zero with chunk := [0xFF] }).wf = true := by decide

/-! ### Decoding: a word of every row, written out from 30_encoding.md R61 and R79

0xFFFB9064 is 1111 1111 111 | 11 | 01 | 1 | 1001 | 00 | 0 | 0 | 01 | 10 | 0 | 1 | 00. -/

theorem test_decode_mpeg1L1 : decode (.header 0xFF 0xFF 0x90 0x64) = .ok (.hdrMpeg1L1 fields9064) := by decide
theorem test_decode_mpeg1L2 : decode (.header 0xFF 0xFD 0x90 0x64) = .ok (.hdrMpeg1L2 fields9064) := by decide
theorem test_decode_mpeg1L3 : decode (.header 0xFF 0xFB 0x90 0x64) = .ok (.hdrMpeg1L3 fields9064) := by decide
theorem test_decode_mpeg2L1 : decode (.header 0xFF 0xF7 0x90 0x64) = .ok (.hdrMpeg2L1 fields9064) := by decide
theorem test_decode_mpeg2L2 : decode (.header 0xFF 0xF5 0x90 0x64) = .ok (.hdrMpeg2L2 fields9064) := by decide
theorem test_decode_mpeg2L3 : decode (.header 0xFF 0xF3 0x90 0x64) = .ok (.hdrMpeg2L3 fields9064) := by decide
theorem test_decode_ver00 : decode (.header 0xFF 0xE3 0x90 0x64) = .ok (.hdrInvalidVer00 1 fields9064) := by decide
theorem test_decode_ver01 : decode (.header 0xFF 0xEB 0x90 0x64) = .ok (.hdrInvalidVer01 1 fields9064) := by decide
theorem test_decode_mpeg1Layer00 : decode (.header 0xFF 0xF9 0x90 0x64) = .ok (.hdrInvalidMpeg1Layer00 fields9064) := by
  decide
theorem test_decode_mpeg2Layer00 : decode (.header 0xFF 0xF1 0x90 0x64) = .ok (.hdrInvalidMpeg2Layer00 fields9064) := by
  decide
theorem test_decode_create : decode (.command 0x01 { Operands.zero with r := true }) = .ok (.create true) := by decide
theorem test_decode_demand : decode (.command 0x02 { Operands.zero with n := 3 }) = .ok (.demand 3) := by decide
theorem test_decode_deliver : decode (.command 0x03 { Operands.zero with chunk := [0xFF, 0x00] }) =
    .ok (.deliver [0xFF, 0x00]) := by decide
theorem test_decode_decode : decode (.command 0x04 { Operands.zero with w := 0xFFFB9064 }) =
    .ok (.decode 0xFFFB9064) := by decide
theorem test_decode_other_fields : decode (.header 0xFF 0xFA 0x6B 0x9B) =
    .ok (.hdrMpeg1L3 ⟨0, 6, 2, 1, 1, 2, 1, 1, 0, 3⟩) := by decide
theorem test_decode_sync_mismatch : decode (.header 0xFF 0x7B 0x90 0x64) = .error .syncMismatch := by decide
theorem test_decode_unknown_opcode : decode (.command 0x05 Operands.zero) = .error (.unknownOpcode 0x05) := by decide
theorem test_encode_header : encode (.hdrMpeg1L3 fields9064) = .header 0xFF 0xFB 0x90 0x64 := by decide
theorem test_table_word_header : decodeTableWord 32 0xFFF20000 = some (.hdrMpeg2L3 ⟨0, 0, 0, 0, 0, 0, 0, 0, 0, 0⟩) := by
  decide
theorem test_table_word_command : decodeTableWord 8 0x03 = some (.deliver []) := by decide

/-! ### The Header Decoder (L2.1) -/

/-- Every word of L2.1 that the table gives `invalid_header`, one at least for each case of R75. -/
theorem test_invalid_words :
    ([0xFFFBF064, 0xFFFB0064, 0xFFFFFFFF, 0x00000000, 0xFF7B9064, 0xFFE00000, 0xFFE39064, 0xFFEB9064, 0xFFF99064,
      0xFFFB9C64, 0xFFFB9066] : List Word).map (decodeHeader Params.default) =
      List.replicate 11 .invalidHeader := by decide

/-- L2.1's valid words: frame size under 72, frame size under 144, and `crc_enabled`. -/
theorem test_valid_words :
    ([0xFFFB9064, 0xFFFB9264, 0xFFFA9064, 0xFFFF14C0, 0xFFFF24C0, 0xFFFD1614, 0xFFFF2AC0, 0xFFFEC200, 0xFFFDE400,
      0xFFFDEA00, 0xFFF38064, 0xFFF31400, 0xFFF7E000] : List Word).map (fun w =>
        match decodeHeader Params.default w with
        | .ok d => (frameSize Params.default d, frameSize { Params.default with lsfL3Coeff := .c144 } d, d.crcEnabled)
        | .invalidHeader => (0, 0, false)) =
      [(417, 417, false), (418, 418, false), (417, 417, true), (32, 32, false), (64, 64, false), (97, 97, false),
        (100, 100, false), (420, 420, true), (1152, 1152, false), (1729, 1729, false), (208, 417, false),
        (24, 48, false), (556, 556, false)] := by decide

/-- L2.1: 0xFFFB90F0 and 0xFFFB916C, the opaque and mode fields. -/
theorem test_mode_fields :
    decodeHeader Params.default 0xFFFB90F0 =
        .ok ⟨.mpeg1, .III, false, 128, 44100, false, false, .mono, 1, 3, false, false, .none⟩ ∧
      decodeHeader Params.default 0xFFFB916C =
        .ok ⟨.mpeg1, .III, false, 128, 44100, false, true, .jointStereo, 2, 2, true, true, .none⟩ := by decide

/-- L2.1: with `P_CRC_ENABLED_BIT = 1` the flag swaps. -/
theorem test_crc_polarity :
    decodeHeader { Params.default with crcEnabledBit := 1 } 0xFFFF14C0 = .ok { descA with crcEnabled := true } := by
  decide

/-! ### Sync, guard and align (L2.2, L2.3) -/

theorem test_hasSyncAt :
    [hasSyncAt [0xFF, 0xE0] 0, hasSyncAt [0xFF] 0, hasSyncAt [0xFF, 0xDF] 0, hasSyncAt [0xFE, 0xFF] 0] =
      [true, false, false, false] := by decide

theorem test_guard :
    ([[], [0xFF], [0x00], [0xFF, 0xE0], [0xFF, 0xDF], [0xFF, 0xFF, 0x14], [0x00, 0xFF]] : List Bytes).map
        (fun rest => (guardCheck Params.default rest, guardCheck (readyWait false []).params rest)) =
      [(.pass, .pass), (.fail, .wait), (.fail, .fail), (.pass, .pass), (.fail, .fail), (.pass, .pass),
        (.fail, .fail)] := by decide

theorem test_align_zero :
    ([[], [0x00, 0x12, 0x34, 0xFF, 0xFF, 0x14, 0xC0], [0xFF], [0x12, 0xFF], [0xFF, 0x00, 0xFF, 0xE0], [0xFF, 0xDF],
      [0x00, 0x00]] : List Bytes).map (fun b => align b 0) =
      [([], []), ([0x00, 0x12, 0x34], [0xFF, 0xFF, 0x14, 0xC0]), ([], [0xFF]), ([0x12], [0xFF]),
        ([0xFF, 0x00], [0xFF, 0xE0]), ([0xFF, 0xDF], []), ([0x00, 0x00], [])] := by decide

theorem test_align_one :
    ([[0xFF, 0xFF, 0x14, 0xC0], [0xFF, 0xFF, 0xFF], [0xFF], [0xFF, 0xFF, 0x04, 0xC0] ++ frameA] : List Bytes).map
        (fun b => align b 1) =
      [([0xFF, 0xFF, 0x14, 0xC0], []), ([0xFF], [0xFF, 0xFF]), ([0xFF], []),
        ([0xFF, 0xFF, 0x04, 0xC0], frameA)] := by decide

/-! ### One step of each instruction -/

theorem test_step_mpeg1L3 :
    endState (step (State.reset.withFetchWord 32 0xFFFB9064)) =
      some ⟨.uninit, false, [], none, 4,
        .decoded (.ok ⟨.mpeg1, .III, false, 128, 44100, false, false, .jointStereo, 2, 2, false, true, .none⟩ 417)⟩ := by
  decide

theorem test_exec_mpeg1L1 :
    endState (exec (.hdrMpeg1L1 ⟨1, 1, 1, 0, 0, 3, 0, 0, 0, 0⟩) (ready false frameA)) =
      some ⟨.ready, false, frameA, none, 4, .decoded (.ok descA 32)⟩ := by decide

theorem test_exec_mpeg1L2 :
    (nextOf (exec (.hdrMpeg1L2 ⟨1, 14, 2, 1, 0, 0, 0, 0, 0, 0⟩) State.reset)).map State.response =
      some (.decoded (.ok ⟨.mpeg1, .II, false, 384, 32000, true, false, .stereo, 2, 0, false, false, .none⟩ 1729)) := by
  decide

theorem test_exec_mpeg2L1 :
    (nextOf (exec (.hdrMpeg2L1 ⟨1, 14, 0, 0, 0, 0, 0, 0, 0, 0⟩) State.reset)).map State.response =
      some (.decoded (.ok ⟨.mpeg2, .I, false, 256, 22050, false, false, .stereo, 2, 0, false, false, .none⟩ 556)) := by
  decide

theorem test_exec_mpeg2L2 :
    (nextOf (exec (.hdrMpeg2L2 ⟨1, 1, 1, 1, 0, 0, 0, 0, 0, 0⟩) State.reset)).map State.response =
      some (.decoded (.ok ⟨.mpeg2, .II, false, 8, 24000, true, false, .stereo, 2, 0, false, false, .none⟩ 49)) := by
  decide

theorem test_exec_mpeg2L3 :
    (nextOf (exec (.hdrMpeg2L3 ⟨1, 1, 1, 0, 0, 0, 0, 0, 0, 0⟩) State.reset)).map State.response =
      some (.decoded (.ok ⟨.mpeg2, .III, false, 8, 24000, false, false, .stereo, 2, 0, false, false, .none⟩ 24)) := by
  decide

theorem test_step_ver00 :
    (nextOf (step (State.reset.withFetchWord 32 0xFFE39064))).map State.response =
      some (.decoded .invalidHeader) := by decide

theorem test_step_ver01 :
    (nextOf (step (State.reset.withFetchWord 32 0xFFEB9064))).map State.response =
      some (.decoded .invalidHeader) := by decide

theorem test_step_mpeg1Layer00 :
    (nextOf (step (State.reset.withFetchWord 32 0xFFF99064))).map State.response =
      some (.decoded .invalidHeader) := by decide

theorem test_step_mpeg2Layer00 :
    (nextOf (step (State.reset.withFetchWord 32 0xFFF19064))).map State.response =
      some (.decoded .invalidHeader) := by decide

/-- L2.7: CREATE in READY with a partial frame. -/
theorem test_create_in_ready :
    endState (exec (.create true) { ready false (frameA.take 20) with estFrameSize := 32 }) =
      some ⟨.ready, true, [], none, 4, .none⟩ := by decide

/-- L2.7: CREATE leaves FAULTED. -/
theorem test_create_in_faulted :
    endState (exec (.create false) { ready false frameA with fsm := .faulted, lastDescriptor := some descA }) =
      some ⟨.ready, false, [], none, 4, .none⟩ := by decide

/-- L2.6: a fresh state, and after E2 with the clamp. -/
theorem test_demand :
    ([0, 1, 2].map fun n => (nextOf (exec (.demand n) (ready false []))).map State.response) =
        [some (.byteCount 4), some (.byteCount 8), some (.byteCount 12)] ∧
      ([0, 1, 3].map fun n =>
          (nextOf (exec (.demand n) { ready false (frameA.take 20) with estFrameSize := 32 })).map State.response) =
        [some (.byteCount 0), some (.byteCount 16), some (.byteCount 80)] := by decide

/-- L2.8: DEMAND in UNINIT. -/
theorem test_demand_refused :
    (nextOf (step (State.reset.withFetchWord 8 0x02))).map (fun s => (s.fsm, s.response, s.refusals)) =
      some (.uninit, .refused .uninit, [.uninit]) := by decide

/-- E7, first delivery: the one-byte overhang under resync. -/
theorem test_deliver_overhang_resync :
    endState (exec (.deliver (frameA ++ [0xFF])) (ready true [])) =
      some ⟨.ready, true, [0xFF], none, 4, .events [.bytesDropped frameA]⟩ := by decide

/-- E14: two frames, then a Fatal. -/
theorem test_deliver_fatal_after_frames :
    endState (exec (.deliver (frameA ++ frameA ++ [0x00, 0x01])) (ready false [])) =
      some ⟨.faulted, false, frameA ++ [0x00, 0x01], some descA, 32,
        .events [.descriptorChanged descA, .frameReady frameA,
          .fatal .invalidFrameBoundary (frameA ++ [0x00, 0x01])]⟩ := by decide

/-- P8: DECODE in FAULTED, with the coefficient 144. -/
theorem test_decode_in_faulted :
    endState (exec (.decode 0xFFF38064)
        { ready false [0, 0, 0, 0] with
          fsm := .faulted, params := { Params.default with lsfL3Coeff := .c144 } }) =
      some ⟨.faulted, false, [0, 0, 0, 0], none, 4,
        .decoded (.ok ⟨.mpeg2, .III, false, 64, 22050, false, false, .jointStereo, 2, 2, false, true, .none⟩ 417)⟩ := by
  decide

theorem test_decode_invalid :
    (nextOf (exec (.decode 0xFFFB0064) State.reset)).map State.response = some (.decoded .invalidHeader) := by decide

/-- L2.8: opcode 0x05 in any state. -/
theorem test_unknown_opcode :
    (nextOf (step { ready true frameA with hostQueue := [.command 0x05 Operands.zero] })).map
        (fun s => (s.fsm, s.buffer, s.response, s.refusals)) =
      some (.ready, frameA, .refused (.unknownOpcode 0x05), [.unknownOpcode 0x05]) := by decide

/-- 30_encoding.md R83: program P1's text, less its second DEMAND and most of its comments. -/
theorem test_assemble_P1 :
    Assembler.assemble "A := FF FF 14 C0 ++ 00×28 ; 32 bytes\nCREATE r=0\nDEMAND 1\nDELIVER A ++ A\nDECODE 0xFFFF14C0".toList =
      some [.create false, .demand 1, .deliver (frameA ++ frameA), .decode 0xFFFF14C0] := by decide

theorem test_assemble_rejects : Assembler.assemble "CREATE r=2".toList = none := by decide

/-- 30_encoding.md R82: the port fields of `dA`. -/
theorem test_port : descA.toPort = ⟨0, 1, 0, 32, 48000, 0, 0, 3, 1, 0, 0, 0, 0⟩ := by decide

/-! ### Witnesses: values that meet each statement's hypotheses -/

theorem witness_EncodingsAreTheWellFormedTransactions :
    (Transaction.header 0xFF 0xE0 0x00 0x00).wf = true ∧ (Transaction.command 0x04 Operands.zero).wf = true := by
  decide

theorem witness_OpcodesSelectCommands : (0x05 : Byte) ∉ [(0x01 : Byte), 0x02, 0x03, 0x04] ∧
    (0x00 : Byte) ∉ [(0x01 : Byte), 0x02, 0x03, 0x04] := by decide

theorem witness_TableRowsSplitTheWords :
    decode (.header 0xFF 0xFB 0x90 0x64) = .ok (.hdrMpeg1L3 fields9064) ∧
      (Transaction.header 0xFF 0xFB 0x90 0x64).tableBits &&& (Instr.hdrMpeg1L3 fields9064).row.mask =
        (Instr.hdrMpeg1L3 fields9064).row.pattern := by decide

theorem witness_HeaderWordIsBigEndian :
    [(0x12 : Byte), 0x34, 0x56, 0x78][3]? = some 0x78 ∧ [(0x12 : Byte), 0x34, 0x56, 0x78][0]? = some 0x12 ∧ 7 < 8 := by
  decide

theorem witness_HeaderInvalidIff : decodeHeader Params.default 0xFFFF14C0 ≠ .invalidHeader := by decide

theorem witness_DescriptorFieldsFromBits : decodeHeader Params.default 0xFFFF14C0 = .ok descA := by decide

theorem witness_FrameSizeFormula :
    descA.layer = .I ∧ { descA with layer := .II }.layer = .II ∧
      ({ descA with layer := .III }.layer = .III ∧ { descA with layer := .III }.version = .mpeg1) ∧
        ({ descA with layer := .III, version := .mpeg2 }.layer = .III ∧
          { descA with layer := .III, version := .mpeg2 }.version = .mpeg2 ∧ Params.default.lsfL3Coeff = .c72 ∧
            { Params.default with lsfL3Coeff := .c144 }.lsfL3Coeff = .c144) := by decide

theorem witness_FrameSizeRange :
    descA.Valid ∧ frameSize Params.default descA = 32 ∧ Params.default.lsfL3Coeff = .c72 ∧
      { Params.default with lsfL3Coeff := .c144 }.lsfL3Coeff = .c144 := by decide

theorem witness_AlignCutsAtLeastCandidate :
    align [0xFF, 0xFF, 0xFF] 1 = ([0xFF], [0xFF, 0xFF]) ∧ align [0x12, 0xFF] 0 = ([0x12], [0xFF]) := by decide

theorem witness_KeptBufferIsNeverMisaligned :
    (align [0x12, 0xFF] 0).2.length = 1 ∧ 2 ≤ (align [0xFF, 0xFF, 0xFF] 1).2.length := by decide

theorem witness_FailureResync :
    let w : Work := begin (ready true [0xFF, 0xEF, 0x14, 0xC0])
    w.st.resyncEnabled = true ∧ headerSize ≤ w.st.buffer.length := by decide

theorem witness_HeaderRowsAgreeWithDecoder :
    decodeHeaderWord 0xFFFB9064 = .ok (.hdrMpeg1L3 fields9064) ∧
      decodeHeaderWord 0xFFF99064 = .ok (.hdrInvalidMpeg1Layer00 fields9064) := by decide

theorem witness_ValidHeaderRowsComplete :
    fields9064.brIndex ≠ 0 ∧ fields9064.brIndex ≠ 15 ∧ fields9064.srIndex ≠ 3 ∧ fields9064.emphCode ≠ 2 := by decide

theorem witness_IllegalFieldsGiveInvalidHeader :
    { fields9064 with brIndex := 0 }.brIndex = 0 ∧ { fields9064 with brIndex := 15 }.brIndex = 15 ∧
      { fields9064 with srIndex := 3 }.srIndex = 3 ∧ { fields9064 with emphCode := 2 }.emphCode = 2 := by decide

theorem witness_DemandFormula : (ready false []).fsm = .ready := by decide

theorem witness_DecodeProbeResult :
    decodeHeader State.reset.params 0xFFFB0064 = .invalidHeader ∧
      decodeHeader State.reset.params 0xFFFF14C0 = .ok descA := by decide

theorem witness_CommandsRefusedOutsideReady :
    State.reset.fsm = .uninit ∧ { State.reset with fsm := .faulted }.fsm = .faulted := by decide

/-- L2.8's capacity vector: 20 + 32 > 40. -/
theorem witness_DeliverPastCapacityRefused :
    let s : State := { ready false (frameA.take 20) with params := { Params.default with bufCap := some 40 } }
    s.fsm = .ready ∧ s.params.bufCap = some 40 ∧ 40 < s.buffer.length + frameA.length := by decide

theorem witness_StepRunsDecodedInstruction :
    let s : State := { State.reset with hostQueue := [encode (.create true)] }
    s.hostQueue = encode (.create true) :: [] ∧ decode (encode (.create true)) = .ok (.create true) := by decide

theorem witness_StepOnUnencodedTransactions :
    ({ State.reset with hostQueue := [.header 0 0 0 0] }.hostQueue = Transaction.header 0 0 0 0 :: [] ∧
        decode (.header 0 0 0 0) = .error .syncMismatch) ∧
      { State.reset with hostQueue := [.command 0x05 Operands.zero] }.hostQueue =
          Transaction.command 0x05 Operands.zero :: [] ∧
        decode (.command 0x05 Operands.zero) = .error (.unknownOpcode 0x05) := by decide

theorem witness_IdleBlockKeepsItsState : State.reset.hostQueue = [] := by decide

theorem witness_LoopEndsWithinBufferLength :
    pass (begin (ready true [0xFF, 0xEF, 0x14, 0xC0])) =
        .again { st := ready true [], ev := [.bytesDropped [0xFF, 0xEF, 0x14, 0xC0]] } ∧
      (begin (ready true [0xFF])).st.buffer ≠ [] := by decide

theorem witness_DeliverWithResyncCompletes :
    (ready true [0xFF]).fsm = .ready ∧ (ready true [0xFF]).resyncEnabled = true ∧
      ∀ cap, (ready true [0xFF]).params.bufCap = some cap → (ready true [0xFF]).buffer.length + frameA.length ≤ cap :=
  ⟨rfl, rfl, fun _ h => nomatch h⟩

/-- A capacity that is exactly met. -/
theorem witness_capacity_met :
    let s : State := { ready false (frameA.take 20) with params := { Params.default with bufCap := some 52 } }
    ∀ cap, s.params.bufCap = some cap → s.buffer.length + frameA.length ≤ cap := by
  intro s cap h
  cases h
  decide

theorem frameA_isFrame : IsFrame Params.default frameA descA := by decide

theorem frameA'_isFrame : IsFrame Params.default frameA' descA' := by decide

theorem witness_DeliverOfWholeFrames :
    let s := ready false (frameA.take 20)
    let chunk := frameA.drop 20 ++ frameA'
    let fs := [(frameA, descA), (frameA', descA')]
    s.fsm = .ready ∧ (∀ cap, s.params.bufCap = some cap → s.buffer.length + chunk.length ≤ cap) ∧
      (∀ x ∈ fs, IsFrame s.params x.1 x.2) ∧ s.buffer ++ chunk = fs.flatMap Prod.fst :=
  ⟨rfl, ready_fits _ _ _, by decide, by decide⟩

theorem witness_DeliverOfPartialFrame :
    let s := ready true [0xFF]
    let chunk := (frameA.take 31).drop 1
    s.fsm = .ready ∧ (∀ cap, s.params.bufCap = some cap → s.buffer.length + chunk.length ≤ cap) ∧
      headerOf s.params (s.buffer ++ chunk) = some descA ∧
        (s.buffer ++ chunk).length < frameSize s.params descA :=
  ⟨rfl, ready_fits _ _ _, by decide, by decide⟩

theorem witness_DeliverOfShortBufferWaits :
    let s := ready false [0x00]
    let chunk : Bytes := [0x01, 0x02]
    s.fsm = .ready ∧ s.resyncEnabled = false ∧
      (∀ cap, s.params.bufCap = some cap → s.buffer.length + chunk.length ≤ cap) ∧ (s.buffer ++ chunk).length < 4 :=
  ⟨rfl, rfl, ready_fits _ _ _, by decide⟩

theorem witness_FatalOnTheFirstPass :
    let s := ready false []
    s.fsm = .ready ∧ s.resyncEnabled = false ∧
      (∀ (cap : Nat) (chunk : Bytes), s.params.bufCap = some cap → s.buffer.length + chunk.length ≤ cap) ∧
        FatalCause s.params .misaligned (s.buffer ++ [0x00, 0x01, 0x02, 0x03]) ∧
          FatalCause s.params .invalidHeader (s.buffer ++ [0xFF, 0xFF, 0x04, 0xC0]) ∧
            FatalCause s.params .invalidFrameBoundary (s.buffer ++ (frameA ++ [0xFF])) :=
  ⟨rfl, rfl, fun cap chunk => ready_fits _ _ chunk cap, by unfold FatalCause; decide, by unfold FatalCause; decide,
    descA, by decide⟩

theorem witness_OneByteAfterAFrame :
    (let s := ready false [];
      s.fsm = .ready ∧
        (∀ cap, s.params.bufCap = some cap → s.buffer.length + (frameA ++ [(0xFF : Byte)]).length ≤ cap) ∧
          IsFrame s.params frameA descA ∧ s.buffer ++ (frameA ++ [0xFF]) = frameA ++ [0xFF] ∧
            s.params.guardMode = .sync11 ∧ s.resyncEnabled = false) ∧
      (let s := readyWait true [];
        s.fsm = .ready ∧
          (∀ cap, s.params.bufCap = some cap → s.buffer.length + (frameA ++ [(0xFF : Byte)]).length ≤ cap) ∧
            IsFrame s.params frameA descA ∧ s.buffer ++ (frameA ++ [0xFF]) = frameA ++ [0xFF] ∧
              s.params.guardMode = .waitShort) :=
  ⟨⟨rfl, ready_fits _ _ _, by decide⟩, rfl, readyWait_fits _ _ _, by decide⟩

/-- E14's outcome, used by the witnesses of the statements about a DELIVER that ends in Fatal. -/
def endE14 : State :=
  { ready false (frameA ++ [0x00, 0x01]) with
    fsm := .faulted
    lastDescriptor := some descA
    estFrameSize := 32
    response := .events [.descriptorChanged descA, .frameReady frameA,
      .fatal .invalidFrameBoundary (frameA ++ [0x00, 0x01])] }

theorem exec_E14 : exec (.deliver (frameA ++ frameA ++ [0x00, 0x01])) (ready false []) = .next endE14 :=
  eq_next_of (by decide)

/-- E1's outcome, used by the witnesses of the statements about a DELIVER that ends READY. -/
def endE1 : State :=
  { ready false [] with
    lastDescriptor := some descA
    estFrameSize := 32
    response := .events [.descriptorChanged descA, .frameReady frameA, .frameReady frameA] }

theorem exec_E1 : exec (.deliver (frameA ++ frameA)) (ready false []) = .next endE1 := eq_next_of (by decide)

theorem witness_FatalEntry :
    (∃ ev, exec (.deliver (frameA ++ frameA ++ [0x00, 0x01])) (ready false []) = .next endE14 ∧
        endE14.response = .events ev ∧ endE14.fsm = .faulted) ∧
      ∃ ev, exec (.deliver (frameA ++ frameA)) (ready false []) = .next endE1 ∧ endE1.response = .events ev ∧
        endE1.fsm = .ready :=
  ⟨⟨_, exec_E14, rfl, rfl⟩, ⟨_, exec_E1, rfl, rfl⟩⟩

theorem witness_DeliverAccountsForEveryByte :
    (∃ ev, exec (.deliver (frameA ++ frameA ++ [0x00, 0x01])) (ready false []) = .next endE14 ∧
        endE14.response = .events ev ∧ (ready false []).params.fatalKeepsPrior = true) ∧
      ∃ ev, exec (.deliver (frameA ++ frameA)) (ready false []) = .next endE1 ∧ endE1.response = .events ev ∧
        endE1.fsm = .ready :=
  ⟨⟨_, exec_E14, rfl, rfl⟩, ⟨_, exec_E1, rfl, rfl⟩⟩

/-- E2: a delivery that emits no frame, for the clause of DeliverFrame about the descriptor. -/
theorem witness_DeliverFrame :
    exec (.deliver (frameA.take 20)) (ready false []) =
        .next { ready false (frameA.take 20) with estFrameSize := 32, response := .events [] } ∧
      ∀ x, Event.frameReady x ∉ ([] : List Event) :=
  ⟨eq_next_of (by decide), by simp⟩

theorem witness_NoDropsWithoutResync :
    ∃ ev, (ready false []).fsm = .ready ∧ (ready false []).resyncEnabled = false ∧
      exec (.deliver (frameA ++ frameA)) (ready false []) = .next endE1 ∧ endE1.response = .events ev :=
  ⟨_, rfl, rfl, exec_E1, rfl⟩

/-- One delivery that ends READY (E1) and one that ends in Fatal (E14). -/
theorem witness_EventsTrackTheDescriptor :
    (ready false []).fsm = .ready ∧
      (∃ ev, exec (.deliver (frameA ++ frameA)) (ready false []) = .next endE1 ∧ endE1.response = .events ev ∧
        endE1.fsm = .ready) ∧
      ∃ ev, exec (.deliver (frameA ++ frameA ++ [0x00, 0x01])) (ready false []) = .next endE14 ∧
        endE14.response = .events ev ∧ (ready false []).params.fatalKeepsPrior = true ∧ endE14.fsm = .faulted :=
  ⟨rfl, ⟨_, exec_E1, rfl, rfl⟩, _, exec_E14, rfl, rfl, rfl⟩

theorem witness_FatalKeepsPriorOnlyFiltersEvents :
    (ready false []).params.fatalKeepsPrior = true ∧ endE1.fsm = .ready ∧ endE14.fsm = .faulted ∧
      exec (.deliver (frameA ++ frameA)) (ready false []) = .next endE1 ∧
        exec (.deliver (frameA ++ frameA ++ [0x00, 0x01])) (ready false []) = .next endE14 :=
  ⟨rfl, rfl, rfl, exec_E1, exec_E14⟩

/-- The state of E2's end meets the invariant, with a partial frame in the buffer, whatever the host has issued. -/
theorem inv_partial (r : Bool) (q : List Transaction) :
    Inv { ready r (frameA.take 20) with estFrameSize := 32, hostQueue := q } where
  ready := fun _ => .inr (.inr (.inl ⟨descA, by simp only [ready]; decide⟩))
  descriptor := fun _ h => nomatch h
  capacity := rfl
  estimate := .inr ⟨descA, by decide, rfl⟩
  memory := memory_wf _

theorem witness_EmptyDeliverChangesNothing :
    Inv { ready true (frameA.take 20) with estFrameSize := 32 } ∧
      { ready true (frameA.take 20) with estFrameSize := 32 }.fsm = .ready := ⟨inv_partial true [], rfl⟩

/-- P3 and L1.4: the garbage `00 12 34`. -/
theorem witness_GarbageThenFrame :
    let s := ready true []
    let g : Bytes := [0x00, 0x12, 0x34]
    s.fsm = .ready ∧ s.resyncEnabled = true ∧
      (∀ cap, s.params.bufCap = some cap → s.buffer.length + (g ++ frameA).length ≤ cap) ∧ g ≠ [] ∧
        (0xFF : Byte) ∉ g ∧ IsFrame s.params frameA descA ∧ s.buffer ++ (g ++ frameA) = g ++ frameA :=
  ⟨rfl, rfl, ready_fits _ _ _, by decide⟩

/-- P7's split under WAIT_SHORT, 33 + 31 bytes of `A ++ A`: the first part leaves a frame and one byte waiting. -/
theorem witness_SplitDelivery_waitShort :
    let s := readyWait false []
    let t1 := { readyWait false (frameA ++ [0xFF]) with estFrameSize := 32, response := .events [] }
    let t := { endE1 with params := s.params }
    s.fsm = .ready ∧ s.resyncEnabled = false ∧ s.params.guardMode = .waitShort ∧ t.buffer = [] ∧
      exec (.deliver ((frameA ++ [0xFF]) ++ frameA.drop 1)) s = .next t ∧ t.fsm = .ready ∧
        exec (.deliver (frameA ++ [0xFF])) s = .next t1 ∧ t1.fsm = .ready ∧ t1.response = .events [] :=
  ⟨rfl, rfl, rfl, rfl, eq_next_of (by decide), rfl, eq_next_of (by decide), rfl, rfl⟩

/-- P7: the split 31 + 33 of `A ++ A`. -/
theorem witness_SplitDeliveryGivesTheSameFrames :
    let s := ready false []
    let t1 := { ready false (frameA.take 31) with estFrameSize := 32, response := .events [] }
    s.fsm = .ready ∧ s.resyncEnabled = false ∧ s.params.guardMode = .sync11 ∧ endE1.buffer = [] ∧
      exec (.deliver (frameA.take 31 ++ (frameA.drop 31 ++ frameA))) s = .next endE1 ∧ endE1.fsm = .ready ∧
        exec (.deliver (frameA.take 31)) s = .next t1 ∧ t1.fsm = .ready ∧ t1.response = .events [] :=
  ⟨rfl, rfl, rfl, rfl, eq_next_of (by decide), rfl, eq_next_of (by decide), rfl, rfl⟩

/-- 43_host_commands.md R207's proviso on P7's splits of `A ++ A`: 31 + 33 keeps it, 33 + 31 does not, and a cut one byte
after a frame that is already emitted does. -/
theorem test_keepsProviso :
    let ends := frameEnds 0 [(frameA, descA), (frameA, descA)]
    let split (n : Nat) := [(frameA ++ frameA).take n, (frameA ++ frameA).drop n]
    keepsProviso ends 0 (split 31) = true ∧ keepsProviso ends 0 (split 33) = false ∧
      keepsProviso ends 0 [frameA, frameA.take 1, frameA.drop 1] = true := by decide

theorem witness_ChunkedStreamGivesItsFrames :
    (let s := readyWait true [];
      let chunks := [frameA ++ [0xFF], frameA'.drop 1];
      let fs := [(frameA, descA), (frameA', descA')];
      s.fsm = .ready ∧ s.buffer = [] ∧ s.params.bufCap = none ∧ s.params.guardMode = .waitShort ∧
        (∀ x ∈ fs, IsFrame s.params x.1 x.2) ∧ chunks.flatten = fs.flatMap Prod.fst) ∧
      (let s := ready false [];
        let chunks := [frameA.take 31, frameA.drop 31 ++ frameA'.take 2, frameA'.drop 2];
        let fs := [(frameA, descA), (frameA', descA')];
        s.fsm = .ready ∧ s.buffer = [] ∧ s.params.bufCap = none ∧ keepsProviso (frameEnds 0 fs) 0 chunks = true ∧
          (∀ x ∈ fs, IsFrame s.params x.1 x.2) ∧ chunks.flatten = fs.flatMap Prod.fst) := by decide

/-- E2's end with the rest of the frame issued: the step emits it. -/
theorem witness_EveryStepKeepsTheInvariant :
    ∃ t, Inv { ready true (frameA.take 20) with estFrameSize := 32, hostQueue := [encode (.deliver (frameA.drop 20))] } ∧
      step { ready true (frameA.take 20) with
        estFrameSize := 32, hostQueue := [encode (.deliver (frameA.drop 20))] } = .next t ∧
        t = { ready true [] with
          lastDescriptor := some descA
          estFrameSize := 32
          response := .events [.descriptorChanged descA, .frameReady frameA] } :=
  ⟨_, inv_partial true _, eq_next_of (by decide), rfl⟩

/-- A short buffer with resync on, for the last clause of ReadyBufferIsInExactlyOneCase. -/
theorem witness_ReadyBufferIsInExactlyOneCase :
    Inv (ready true [0xFF]) ∧ (ready true [0xFF]).fsm = .ready ∧ BufferShort (ready true [0xFF]) :=
  ⟨{  ready := fun _ => .inr (.inl ⟨by unfold BufferShort; decide, fun _ => by decide⟩)
      descriptor := fun _ h => nomatch h
      capacity := rfl
      estimate := .inl rfl
      memory := memory_wf _ }, rfl, by unfold BufferShort; decide⟩

theorem witness_FieldsUnreadableOutsideReady :
    State.reset.fsm ≠ .ready ∧ exec (.demand 1) State.reset = .next (refuse .uninit State.reset) :=
  ⟨by decide, rfl⟩

theorem witness_ResultsDependOnlyOnTheRecord :
    exec (.deliver (frameA ++ frameA)) (ready false []) = .next endE1 := exec_E1

theorem witness_LifecycleMoves :
    (exec (.create true) State.reset = .next (created true State.reset) ∧ (created true State.reset).fsm = .ready) ∧
      exec (.deliver (frameA ++ frameA ++ [0x00, 0x01])) (ready false []) = .next endE14 ∧ endE14.fsm = .faulted :=
  ⟨⟨rfl, rfl⟩, exec_E14, rfl⟩

theorem witness_StepKeepsParametersAndRecord :
    ∃ t, step { State.reset with hostQueue := [encode (.create true)] } = .next t ∧ t.resyncEnabled ≠ false :=
  ⟨created true State.reset, eq_next_of (by decide), by decide⟩

theorem witness_DescriptorAndEstimateWriters :
    (exec (.deliver (frameA ++ frameA)) (ready false []) = .next endE1 ∧ hasDescriptor (ready false []) = false ∧
        hasDescriptor endE1 = true ∧ endE1.estFrameSize ≠ (ready false []).estFrameSize) ∧
      (exec (.create false) endE1 = .next (created false endE1) ∧ hasDescriptor (created false endE1) = false) ∧
        (exec (.create false) endE14 = .next (created false endE14) ∧ faulted endE14 = true ∧
          faulted (created false endE14) = false) :=
  ⟨⟨exec_E1, by decide⟩, ⟨rfl, rfl⟩, ⟨rfl, by decide⟩⟩

theorem witness_PortFieldsAreFaithful : descA.Valid ∧ descA.toPort = descA.toPort := by decide

end Sys2Proof.Tests
end

namespace Sys2Proof

/-! ### The header word (00_scope.md R12, 20_memory.md R41) -/

/-- Appending bit vectors is a sum at the place value of the upper part. -/
theorem toNat_append_eq_add {m n : Nat} (x : BitVec m) (y : BitVec n) : (x ++ y).toNat = x.toNat * 2 ^ n + y.toNat := by
  rw [BitVec.toNat_append, ← Nat.shiftLeft_add_eq_or_of_lt y.isLt, Nat.shiftLeft_eq]

theorem be32_toNat (b0 b1 b2 b3 : Byte) :
    (be32 b0 b1 b2 b3).toNat = b0.toNat * 2 ^ 24 + b1.toNat * 2 ^ 16 + b2.toNat * 2 ^ 8 + b3.toNat := by
  simp only [be32, toNat_append_eq_add]
  omega

/-- R41: byte `n` of the stream holds the word's eight bits from place `8 * (3 - n)` up. -/
theorem be32_getLsbD (b0 b1 b2 b3 : Byte) (n j : Nat) (b : Byte) (hb : [b0, b1, b2, b3][n]? = some b) (hj : j < 8) :
    (be32 b0 b1 b2 b3).getLsbD (8 * (3 - n) + j) = b.getLsbD j := by
  simp only [be32, BitVec.getLsbD_append]
  match n, hb with
  | 0, rfl => simp [show 24 + j = 8 + (8 + (8 + j)) by omega]
  | 1, rfl => simp [show 16 + j = 8 + (8 + j) by omega, hj]
  | 2, rfl => simp [hj]
  | 3, rfl => simp [hj]

/-- Settles O7: the value is a sum of byte values, and stream bit `8n + k` is place `8 * (3 - n) + (7 - k)`. -/
theorem headerWordIsBigEndian : Obligations.HeaderWordIsBigEndian := by
  intro b0 b1 b2 b3
  refine ⟨be32_toNat b0 b1 b2 b3, fun n k b hb hk => ?_⟩
  have hn : n < 4 := (List.getElem?_eq_some_iff.1 hb).1
  rw [show 31 - (8 * n + k) = 8 * (3 - n) + (7 - k) by omega]
  exact be32_getLsbD b0 b1 b2 b3 n (7 - k) b hb (by omega)

end Sys2Proof

namespace Sys2Proof.Machine

/-! ### What no pass of the extractor writes -/

/-- The parts of the state that a DELIVER leaves alone: the parameters, the resync flag, the queue and the refusals. -/
structure SameSetup (s t : State) : Prop where
  params : t.params = s.params
  resyncEnabled : t.resyncEnabled = s.resyncEnabled
  hostQueue : t.hostQueue = s.hostQueue
  refusals : t.refusals = s.refusals

theorem SameSetup.refl (s : State) : SameSetup s s :=
  ⟨rfl, rfl, rfl, rfl⟩

theorem SameSetup.trans {s t u : State} (h : SameSetup s t) (k : SameSetup t u) : SameSetup s u where
  params := k.params.trans h.params
  resyncEnabled := k.resyncEnabled.trans h.resyncEnabled
  hostQueue := k.hostQueue.trans h.hostQueue
  refusals := k.refusals.trans h.refusals

/-- The working copy a pass leaves, whether the loop goes on or not. -/
@[simp] def PassResult.work : PassResult → Work
  | .again w => w
  | .stop w => w

theorem onFailure_sameSetup (kind : ErrorKind) (w : Work) : SameSetup w.st (onFailure kind w).work.st := by
  rcases onFailure_cases kind w with ⟨-, e⟩ | ⟨-, e⟩ <;> rw [e] <;> exact ⟨rfl, rfl, rfl, rfl⟩

theorem emitFrame_sameSetup (d : Descriptor) (fs : Nat) (w : Work) : SameSetup w.st (emitFrame d fs w).st := by
  rw [emitFrame_eq]
  exact ⟨rfl, rfl, rfl, rfl⟩

theorem pass_sameSetup (w : Work) : SameSetup w.st (pass w).work.st := by
  rcases pass_cases w with ⟨-, e⟩ | ⟨-, -, e⟩ | ⟨-, -, e⟩ | ⟨-, -, -, e⟩ |
    ⟨d, -, ⟨-, e⟩ | ⟨-, -, e⟩ | ⟨-, -, e⟩ | ⟨-, -, e⟩⟩ <;> rw [e]
  · exact .refl _
  · exact .refl _
  · exact ⟨rfl, rfl, rfl, rfl⟩
  · exact onFailure_sameSetup _ w
  · exact ⟨rfl, rfl, rfl, rfl⟩
  · exact ⟨rfl, rfl, rfl, rfl⟩
  · exact onFailure_sameSetup _ w
  · exact emitFrame_sameSetup d _ w

theorem extract_sameSetup (n : Nat) (w r : Work) (h : extract n w = some r) : SameSetup w.st r.st := by
  refine extract_induction (P := fun v => SameSetup w.st v.st) (Q := fun v => SameSetup w.st v.st) ?again ?stop
    n w r (.refl _) h
  case again => exact fun v v' hv e => hv.trans (by simpa [e] using pass_sameSetup v)
  case stop => exact fun v v' hv e => hv.trans (by simpa [e] using pass_sameSetup v)

theorem deliverStart_sameSetup (chunk : Bytes) (s : State) : SameSetup s (deliverStart chunk s).st := by
  rw [deliverStart_frame]
  exact ⟨rfl, rfl, rfl, rfl⟩

/-! ### What an instruction and a step can do -/

/-- R190: a DEMAND counts bytes in READY and is refused elsewhere. -/
theorem execDemand_next (n : Nat) (s t : State) (h : execDemand n s = .next t) :
    (s.fsm = .uninit ∧ t = refuse .uninit s) ∨ (s.fsm = .faulted ∧ t = refuse .faulted s) ∨
      (s.fsm = .ready ∧ t = respond (.byteCount (demandCount n s)) s) := by
  unfold execDemand at h
  cases hf : s.fsm
  · rw [whenReady_uninit s _ hf] at h
    cases h
    simp
  · rw [whenReady_ready s _ hf] at h
    cases h
    simp
  · rw [whenReady_faulted s _ hf] at h
    cases h
    simp

/-- R13, R204: an instruction that answers a next state gives a result or a refusal and writes nothing else, or is a
CREATE, or is a DELIVER whose loop has run. -/
theorem exec_next (i : Instr) (s t : State) (h : exec i s = .next t) :
    (∃ r, t = respond r s) ∨ (∃ why, t = refuse why s) ∨ (∃ r, i = .create r ∧ t = created r s) ∨
      ∃ chunk w, i = .deliver chunk ∧ s.fsm = .ready ∧ fits s.params (s.buffer.length + chunk.length) = true ∧
        extract ((deliverStart chunk s).st.buffer.length + 1) (deliverStart chunk s) = some w ∧ t = commit w := by
  cases i with
  | create r => exact .inr (.inr (.inl ⟨r, rfl, (Host.Outcome.next.inj h).symm⟩))
  | demand n =>
    rcases execDemand_next n s t h with ⟨-, rfl⟩ | ⟨-, rfl⟩ | ⟨-, rfl⟩
    · exact .inr (.inl ⟨_, rfl⟩)
    · exact .inr (.inl ⟨_, rfl⟩)
    · exact .inl ⟨_, rfl⟩
  | deliver chunk =>
    rcases execDeliver_next chunk s t h with ⟨-, rfl⟩ | ⟨-, rfl⟩ | ⟨-, -, rfl⟩ | ⟨hf, hc, w, hw, rfl⟩
    · exact .inr (.inl ⟨_, rfl⟩)
    · exact .inr (.inl ⟨_, rfl⟩)
    · exact .inr (.inl ⟨_, rfl⟩)
    · exact .inr (.inr (.inr ⟨chunk, w, rfl, hf, hc, hw, rfl⟩))
  | _ => exact .inl ⟨_, (Host.Outcome.next.inj h).symm⟩

/-- R8, R230: no instruction touches the parameters or the queue or forgets a refusal, and only CREATE writes the resync
flag (R23). -/
theorem exec_frame (i : Instr) (s t : State) (h : exec i s = .next t) :
    t.params = s.params ∧ s.refusals <+: t.refusals ∧ t.hostQueue = s.hostQueue ∧
      (t.resyncEnabled ≠ s.resyncEnabled → ∃ r, i = .create r ∧ t.resyncEnabled = r) := by
  rcases exec_next i s t h with ⟨r, rfl⟩ | ⟨why, rfl⟩ | ⟨r, rfl, rfl⟩ | ⟨chunk, w, -, -, -, hw, rfl⟩
  · simp
  · simp
  · simp
  · have same := (deliverStart_sameSetup chunk s).trans (extract_sameSetup _ _ w hw)
    simp [same.params, same.refusals, same.hostQueue, same.resyncEnabled]

/-- R75 (a), R190: a transaction that is no instruction gives a result or a refusal. -/
theorem rejected_frame (e : DecodeError) (s : State) :
    (rejected e s).params = s.params ∧ s.refusals <+: (rejected e s).refusals ∧
      (rejected e s).hostQueue = s.hostQueue ∧ (rejected e s).resyncEnabled = s.resyncEnabled := by
  cases e <;> simp [rejected]

/-- Settles O58: an idle step keeps its state, a rejected transaction writes no setup, and an instruction keeps what
`exec_frame` says. -/
theorem stepKeepsParametersAndRecord : Obligations.StepKeepsParametersAndRecord := by
  intro s t h
  rcases step_cases s with ⟨hq, e⟩ | ⟨x, rest, hq, ⟨i, hx, e⟩ | ⟨err, hx, e⟩⟩ <;> rw [e] at h
  · cases h
    simp [hq]
  · obtain ⟨hp, hr, hhq, hcreate⟩ := exec_frame i _ t h
    refine ⟨hp, hr, by simp [hhq, hq], fun hne => ?_⟩
    obtain ⟨r, rfl, hres⟩ := hcreate hne
    exact ⟨x, r, by simp [hq], hx, hres⟩
  · cases h
    obtain ⟨hp, hr, hhq, hres⟩ := rejected_frame err { s with hostQueue := rest }
    exact ⟨hp, hr, by simp [hhq, hq], fun hne => absurd hres hne⟩

/-- Settles O31: `fetch` takes the oldest transaction and `step` hands the decoded instruction to `exec`. -/
theorem stepRunsDecodedInstruction : Obligations.StepRunsDecodedInstruction := by
  intro s t rest i hq hd
  simp [step, fetch, hq, hd]

end Sys2Proof.Machine

namespace Sys2Proof.Machine

/-! ### What the aligns and the guard leave at the head of the buffer -/

/-- R172: `Align` keeps what the scan leaves of the bytes from `start` on. -/
theorem align_snd (b : Bytes) (start : Nat) : (align b start).2 = (b.drop start).drop (scan (b.drop start)) := by
  rw [List.drop_drop]
  rcases Nat.le_total start b.length with h | h
  · simp [align, alignAt, Nat.min_eq_left h]
  · simp [align, alignAt, Nat.min_eq_right h, List.drop_eq_nil_of_le h, scan]

/-- R177: what an align keeps is empty or begins with a candidate. -/
theorem align_kept_head (b : Bytes) (start : Nat) :
    (align b start).2 = [] ∨ isCandidateAt (align b start).2 0 = true := by
  rw [align_snd]
  rcases (scan_le_length (b.drop start)).lt_or_eq with h | h
  · exact .inr (by rw [isCandidateAt_drop]; exact scan_candidate _ h)
  · exact .inl (List.drop_eq_nil_of_le h.ge)

theorem align_kept_length_le (b : Bytes) (start : Nat) : (align b start).2.length ≤ b.length := by
  simp [align]

/-- R171: a candidate is an 0xFF. -/
theorem byteAt_of_isCandidateAt (b : Bytes) (i : Nat) (h : isCandidateAt b i = true) : byteAt b i = some 0xFF := by
  unfold isCandidateAt at h
  unfold byteAt
  split at h <;> simp_all

theorem guardCheck_eq_pass (p : Params) (rest : Bytes) (h : guardCheck p rest = .pass) :
    rest = [] ∨ hasSyncAt rest 0 = true := by
  rcases guardCheck_cases p rest with ⟨hb, -⟩ | ⟨-, -, -, -, e⟩ | ⟨-, -, -, e⟩ | ⟨-, hs, -⟩ | ⟨-, -, e⟩
  · exact .inl hb
  · simp [e] at h
  · simp [e] at h
  · exact .inr hs
  · simp [e] at h

theorem guardCheck_eq_wait (p : Params) (rest : Bytes) (h : guardCheck p rest = .wait) :
    p.guardMode = .waitShort ∧ rest = [0xFF] := by
  rcases guardCheck_cases p rest with ⟨-, e⟩ | ⟨x, rfl, hm, rfl, -⟩ | ⟨-, -, -, e⟩ | ⟨-, -, e⟩ | ⟨-, -, e⟩
  · simp [e] at h
  · exact ⟨hm, rfl⟩
  · simp [e] at h
  · simp [e] at h
  · simp [e] at h

/-! ### The two ways a pass ends -/

theorem onFailure_again (kind : ErrorKind) (w v : Work) (h : onFailure kind w = .again v) :
    w.st.resyncEnabled = true ∧ v = resync w := by
  rcases onFailure_cases kind w with ⟨-, e⟩ | ⟨hr, e⟩ <;> rw [e] at h <;> cases h
  exact ⟨hr, rfl⟩

theorem onFailure_stop (kind : ErrorKind) (w v : Work) (h : onFailure kind w = .stop v) : v = raiseFatal kind w := by
  rcases onFailure_cases kind w with ⟨-, e⟩ | ⟨-, e⟩ <;> rw [e] at h <;> cases h
  rfl

/-- R149, R150: a pass that goes on has resynced or has emitted a frame. -/
theorem pass_again (w v : Work) (h : pass w = .again v) :
    (w.st.resyncEnabled = true ∧ v = resync w) ∨
      ∃ d, headerOf w.st.params w.st.buffer = some d ∧ frameSize w.st.params d ≤ w.st.buffer.length ∧
        guardCheck w.st.params (w.st.buffer.drop (frameSize w.st.params d)) = .pass ∧
          v = emitFrame d (frameSize w.st.params d) w := by
  rcases pass_cases w with ⟨-, e⟩ | ⟨-, -, e⟩ | ⟨-, -, e⟩ | ⟨-, -, -, e⟩ |
    ⟨d, hd, ⟨-, e⟩ | ⟨-, -, e⟩ | ⟨-, -, e⟩ | ⟨hle, hg, e⟩⟩ <;> rw [e] at h
  · cases h
  · cases h
  · cases h
  · exact .inl (onFailure_again _ w v h)
  · cases h
  · cases h
  · exact .inl (onFailure_again _ w v h)
  · cases h
    exact .inr ⟨d, hd, hle, hg, rfl⟩

/-- R141, R145, R148, R224: a pass that ends the loop has kept a short buffer, has raised a Fatal, or has written the
estimate for a frame that is not complete or whose guard waits. -/
theorem pass_stop (w v : Work) (h : pass w = .stop v) :
    (w.st.buffer.length < headerSize ∧ v = w) ∨ (∃ kind, v = raiseFatal kind w) ∨
      ∃ d, headerOf w.st.params w.st.buffer = some d ∧ v = setEst (frameSize w.st.params d) w ∧
        (w.st.buffer.length < frameSize w.st.params d ∨
          frameSize w.st.params d ≤ w.st.buffer.length ∧
            guardCheck w.st.params (w.st.buffer.drop (frameSize w.st.params d)) = .wait) := by
  rcases pass_cases w with ⟨hb, e⟩ | ⟨-, hlt, e⟩ | ⟨-, -, e⟩ | ⟨-, -, -, e⟩ |
    ⟨d, hd, ⟨hlt, e⟩ | ⟨hle, hg, e⟩ | ⟨-, -, e⟩ | ⟨-, -, e⟩⟩ <;> rw [e] at h
  · cases h
    exact .inl ⟨by simp [hb, headerSize], rfl⟩
  · cases h
    exact .inl ⟨hlt, rfl⟩
  · cases h
    exact .inr (.inl ⟨_, rfl⟩)
  · exact .inr (.inl ⟨_, onFailure_stop _ w v h⟩)
  · cases h
    exact .inr (.inr ⟨d, hd, rfl, .inl hlt⟩)
  · cases h
    exact .inr (.inr ⟨d, hd, rfl, .inr ⟨hle, hg⟩⟩)
  · exact .inr (.inl ⟨_, onFailure_stop _ w v h⟩)
  · cases h

/-! ### The invariant of the loop -/

/-- What holds of the working state at the head of every pass: the clauses of `Inv` but R35, and under resync a buffer
that is empty or begins with a candidate (R177). -/
structure LoopInv (s : State) : Prop where
  descriptor : ∀ d, s.lastDescriptor = some d → d.Valid
  capacity : fits s.params s.buffer.length = true
  estimate : s.estFrameSize = headerSize ∨ ∃ d : Descriptor, d.Valid ∧ s.estFrameSize = frameSize s.params d
  head : s.resyncEnabled = true → s.buffer = [] ∨ isCandidateAt s.buffer 0 = true

theorem LoopInv.toInv {s : State} (h : LoopInv s) (hready : s.fsm = .ready → ReadyBuffer s) : Inv s where
  ready := hready
  descriptor := h.descriptor
  capacity := h.capacity
  estimate := h.estimate
  memory := memory_wf _

/-- R174, R177: the failure resync leaves a candidate at the head. -/
theorem LoopInv.resync {w : Work} (h : LoopInv w.st) : LoopInv (resync w).st where
  descriptor := h.descriptor
  capacity := fits_mono _ _ _ (align_kept_length_le _ _) h.capacity
  estimate := h.estimate
  head := fun _ => align_kept_head _ _

/-- R147, R151: a frame's descriptor is valid, and the guard has seen what follows it. -/
theorem LoopInv.emitFrame {w : Work} {d : Descriptor} (h : LoopInv w.st) (hd : d.Valid)
    (hg : guardCheck w.st.params (w.st.buffer.drop (frameSize w.st.params d)) = .pass) :
    LoopInv (emitFrame d (frameSize w.st.params d) w).st := by
  rw [emitFrame_eq]
  exact {
    descriptor := fun e he => Option.some.inj he ▸ hd
    capacity := fits_mono _ _ _ (by simp) h.capacity
    estimate := .inr ⟨d, hd, rfl⟩
    head := fun _ => (guardCheck_eq_pass _ _ hg).imp_right (hasSyncAt_candidate _ 0) }

theorem LoopInv.again {w v : Work} (h : LoopInv w.st) (e : pass w = .again v) : LoopInv v.st := by
  rcases pass_again w v e with ⟨-, rfl⟩ | ⟨d, hd, -, hg, rfl⟩
  · exact h.resync
  · exact h.emitFrame (headerOf_valid _ _ d hd) hg

/-- R131, R177: what the loop keeps of a buffer shorter than a header is in case (i) or (ii) of R35. -/
theorem LoopInv.readyBuffer_of_short {s : State} (h : LoopInv s) (hlt : s.buffer.length < headerSize) :
    ReadyBuffer s := by
  by_cases hb : s.buffer = []
  · exact .inl hb
  · exact .inr (.inl ⟨⟨List.length_pos_iff.2 hb, hlt⟩, fun hr => (h.head hr).resolve_left hb⟩)

/-- R145, R148: a frame that is incomplete or waits leaves its buffer in case (iii) or (iv) of R35. -/
theorem setEst_readyBuffer (w : Work) (d : Descriptor) (hd : headerOf w.st.params w.st.buffer = some d)
    (h : w.st.buffer.length < frameSize w.st.params d ∨
      frameSize w.st.params d ≤ w.st.buffer.length ∧
        guardCheck w.st.params (w.st.buffer.drop (frameSize w.st.params d)) = .wait) :
    ReadyBuffer (setEst (frameSize w.st.params d) w).st := by
  have hv := headerOf_valid _ _ d hd
  rcases h with hlt | ⟨hle, hg⟩
  · exact .inr (.inr (.inl ⟨d, hd, hv, hlt, rfl⟩))
  · obtain ⟨hm, hrest⟩ := guardCheck_eq_wait _ _ hg
    have hlen : w.st.buffer.length = frameSize w.st.params d + 1 := by
      have := congrArg List.length hrest
      simp only [List.length_drop, List.length_singleton] at this
      omega
    have hbyte : byteAt w.st.buffer (frameSize w.st.params d) = some 0xFF := by
      rw [← Nat.add_zero (frameSize w.st.params d), ← byteAt_drop, hrest]
      rfl
    exact .inr (.inr (.inr ⟨hm, d, hd, hv, hlen, hbyte, rfl⟩))

theorem LoopInv.stop {w v : Work} (h : LoopInv w.st) (e : pass w = .stop v) : Inv v.st := by
  rcases pass_stop w v e with ⟨hlt, rfl⟩ | ⟨kind, rfl⟩ | ⟨d, hd, rfl, hwait⟩
  · exact h.toInv fun _ => h.readyBuffer_of_short hlt
  · have h' : LoopInv (raiseFatal kind w).st := ⟨h.descriptor, h.capacity, h.estimate, h.head⟩
    exact h'.toInv nofun
  · have h' : LoopInv (setEst (frameSize w.st.params d) w).st :=
      ⟨h.descriptor, h.capacity, .inr ⟨d, headerOf_valid _ _ d hd, rfl⟩, h.head⟩
    exact h'.toInv fun _ => setEst_readyBuffer w d hd hwait

/-- R173, R46: a DELIVER that fits starts its loop with the loop's invariant. -/
theorem deliverStart_loopInv (chunk : Bytes) (s : State) (h : Inv s)
    (hfits : fits s.params (s.buffer.length + chunk.length) = true) : LoopInv (deliverStart chunk s).st := by
  rw [← List.length_append] at hfits
  rw [deliverStart_frame]
  refine ⟨h.descriptor, ?capacity, h.estimate, ?head⟩
  case capacity =>
    cases s.resyncEnabled
    · exact hfits
    · exact fits_mono _ _ _ (align_kept_length_le _ _) hfits
  case head =>
    intro hr
    simpa only [if_pos hr] using align_kept_head (s.buffer ++ chunk) 0

/-! ### Every step keeps the invariant -/

theorem Inv.respond {s : State} (h : Inv s) (r : Response) : Inv (respond r s) :=
  ⟨h.ready, h.descriptor, h.capacity, h.estimate, h.memory⟩

theorem Inv.refuse {s : State} (h : Inv s) (why : RefuseReason) : Inv (refuse why s) :=
  ⟨h.ready, h.descriptor, h.capacity, h.estimate, h.memory⟩

theorem Inv.commit {w : Work} (h : Inv w.st) : Inv (commit w) :=
  ⟨h.ready, h.descriptor, h.capacity, h.estimate, h.memory⟩

/-- The invariant does not read the queue. -/
theorem Inv.withQueue {s : State} (h : Inv s) (q : List Transaction) : Inv { s with hostQueue := q } :=
  ⟨h.ready, h.descriptor, h.capacity, h.estimate, h.memory⟩

/-- R191: CREATE keeps of the old state only the parameters, whose capacity an empty buffer fits. -/
theorem Inv.created {s : State} (h : Inv s) (r : Bool) : Inv (created r s) where
  ready := fun _ => .inl rfl
  descriptor := nofun
  capacity := fits_mono _ _ _ (Nat.zero_le _) h.capacity
  estimate := .inl rfl
  memory := memory_wf _

theorem exec_keeps_inv (i : Instr) (s t : State) (h : Inv s) (e : exec i s = .next t) : Inv t := by
  rcases exec_next i s t e with ⟨r, rfl⟩ | ⟨why, rfl⟩ | ⟨r, -, rfl⟩ | ⟨chunk, w, -, -, hfits, hw, rfl⟩
  · exact h.respond r
  · exact h.refuse why
  · exact h.created r
  · have hend : Inv w.st := extract_induction (P := fun v => LoopInv v.st) (Q := fun v => Inv v.st)
      (fun _ _ => LoopInv.again) (fun _ _ => LoopInv.stop) _ _ w (deliverStart_loopInv chunk s h hfits) hw
    exact hend.commit

theorem rejected_keeps_inv (err : DecodeError) (s : State) (h : Inv s) : Inv (rejected err s) := by
  cases err with
  | syncMismatch => exact h.respond _
  | unknownOpcode op => exact h.refuse _

/-- Settles O53: taking a transaction does not touch what the invariant reads, and instructions and rejections keep
it; inside a DELIVER the loop keeps `LoopInv`, which gives R35 where the loop stops. -/
theorem everyStepKeepsTheInvariant : Obligations.EveryStepKeepsTheInvariant := by
  intro s t h e
  rcases step_cases s with ⟨-, hs⟩ | ⟨x, rest, -, ⟨i, -, hs⟩ | ⟨err, -, hs⟩⟩ <;> rw [hs] at e
  · cases e
    exact h
  · exact exec_keeps_inv i _ t (h.withQueue rest) e
  · cases e
    exact rejected_keeps_inv err _ (h.withQueue rest)

/-! ### The four cases of R35 exclude each other -/

theorem BufferPartial.headerSize_le {s : State} (h : BufferPartial s) : headerSize ≤ s.buffer.length := by
  obtain ⟨d, hd, -⟩ := h
  exact headerOf_length _ _ d hd

theorem BufferWaiting.headerSize_le {s : State} (h : BufferWaiting s) : headerSize ≤ s.buffer.length := by
  obtain ⟨-, d, hd, -⟩ := h
  exact headerOf_length _ _ d hd

theorem BufferEmpty.length_eq {s : State} (h : BufferEmpty s) : s.buffer.length = 0 :=
  List.length_eq_zero_iff.2 h

/-- The header at the front fixes the frame size, so a buffer is not both shorter and longer than its frame. -/
theorem BufferPartial.not_waiting {s : State} (h : BufferPartial s) : ¬BufferWaiting s := by
  rintro ⟨-, e, he, -, hlen, -⟩
  obtain ⟨d, hd, -, hlt, -⟩ := h
  obtain rfl : d = e := Option.some.inj (hd.symm.trans he)
  omega

/-- R35: the clause on resync, from the invariant's case (ii). -/
theorem ReadyBuffer.candidate_of_short {s : State} (h : ReadyBuffer s) (hshort : BufferShort s)
    (hr : s.resyncEnabled = true) : isCandidateAt s.buffer 0 = true := by
  obtain ⟨hpos, hlt⟩ := hshort
  rcases h with he | ⟨-, hc⟩ | hp | hw
  · exact absurd he.length_eq (by omega)
  · exact hc hr
  · exact absurd hp.headerSize_le (by omega)
  · exact absurd hw.headerSize_le (by omega)

/-- Settles O54: lengths tell the empty, the short and the two long cases apart, and `not_waiting` the last two. -/
theorem readyBufferIsInExactlyOneCase : Obligations.ReadyBufferIsInExactlyOneCase := by
  intro s hinv hf
  have hready := hinv.ready hf
  have hpos : 0 < headerSize := by decide
  refine ⟨hready.imp_right (Or.imp_left And.left), ?es, ?ep, ?ew, ?sp, ?sw, fun ⟨hp, hw⟩ => hp.not_waiting hw,
    fun hr hshort => byteAt_of_isCandidateAt _ _ (hready.candidate_of_short hshort hr)⟩
  case es => exact fun ⟨he, hs⟩ => absurd he.length_eq hs.1.ne'
  case ep => exact fun ⟨he, hp⟩ => absurd (he.length_eq ▸ hp.headerSize_le) (by omega)
  case ew => exact fun ⟨he, hw⟩ => absurd (he.length_eq ▸ hw.headerSize_le) (by omega)
  case sp => exact fun ⟨hs, hp⟩ => hs.2.not_ge hp.headerSize_le
  case sw => exact fun ⟨hs, hw⟩ => hs.2.not_ge hw.headerSize_le

/-! ### Outside READY -/

/-- R190, R230: outside READY a command that needs it is refused, for a reason that only `fsm` decides. -/
theorem whenReady_outside (s u : State) (run run' : Host.Outcome State Fault Refusal) (hf : u.fsm = s.fsm)
    (h : s.fsm ≠ .ready) :
    ∃ why, whenReady s run = .next (refuse why s) ∧ whenReady u run' = .next (refuse why u) := by
  cases hs : s.fsm with
  | uninit => exact ⟨.uninit, whenReady_uninit s _ hs, whenReady_uninit u _ (hf.trans hs)⟩
  | faulted => exact ⟨.faulted, whenReady_faulted s _ hs, whenReady_faulted u _ (hf.trans hs)⟩
  | ready => exact absurd hs h

/-- R36, R224: outside READY an instruction reads of the record only `fsm`, besides the parameters. -/
theorem exec_outside (i : Instr) (s u s' : State) (hp : u.params = s.params) (hf : u.fsm = s.fsm)
    (hr : u.refusals = s.refusals) (h : s.fsm ≠ .ready) (e : exec i s = .next s') :
    ∃ t, exec i u = .next t ∧ t.response = s'.response ∧ t.fsm = s'.fsm ∧ t.refusals = s'.refusals := by
  have refused (run run' : Host.Outcome State Fault Refusal) (e : whenReady s run = .next s') :
      ∃ t, whenReady u run' = .next t ∧ t.response = s'.response ∧ t.fsm = s'.fsm ∧ t.refusals = s'.refusals := by
    obtain ⟨why, hs, hu⟩ := whenReady_outside s u run run' hf h
    rw [hs] at e
    cases e
    exact ⟨_, hu, by simp [hf, hr]⟩
  cases i with
  | create r =>
    cases e
    exact ⟨_, rfl, by simp [hr]⟩
  | demand n => exact refused _ _ e
  | deliver chunk => exact refused _ _ e
  | _ =>
    cases e
    exact ⟨_, rfl, by simp [hp, hf, hr]⟩

/-- Settles O55: the changed state has the same parameters, `fsm` and refusals. -/
theorem fieldsUnreadableOutsideReady : Obligations.FieldsUnreadableOutsideReady := by
  intro i s s' r b last est h e
  exact exec_outside i s _ s' rfl rfl rfl h e

/-! ### The lifecycle, the descriptor and the events along the loop -/

/-- How the working copy moves on in a DELIVER: to FAULTED or not at all, with every event kept, and to a new last
descriptor only with a frame emitted (R24, R25, R151). -/
structure Progress (w v : Work) : Prop where
  fsm : v.st.fsm = w.st.fsm ∨ v.st.fsm = .faulted
  events : w.ev <+: v.ev
  descriptor : v.st.lastDescriptor = w.st.lastDescriptor ∨
    v.st.lastDescriptor.isSome = true ∧ ∃ x, Event.frameReady x ∈ v.ev

theorem Progress.refl (w : Work) : Progress w w :=
  ⟨.inl rfl, List.prefix_rfl, .inl rfl⟩

theorem Progress.trans {u w v : Work} (h : Progress u w) (k : Progress w v) : Progress u v where
  fsm := by
    rcases k.fsm with e | e
    · exact h.fsm.imp e.trans e.trans
    · exact .inr e
  events := h.events.trans k.events
  descriptor := by
    rcases k.descriptor with e | ⟨hsome, hx⟩
    · rw [e]
      exact h.descriptor.imp_right fun ⟨hsome, x, hx⟩ => ⟨hsome, x, k.events.subset hx⟩
    · exact .inr ⟨hsome, hx⟩

theorem emitFrame_progress (d : Descriptor) (fs : Nat) (w : Work) : Progress w (emitFrame d fs w) := by
  rw [emitFrame_eq]
  exact ⟨.inl rfl, by simp [List.append_assoc], .inr ⟨rfl, memRead w.st.buffer 0 fs, by simp⟩⟩

theorem pass_again_progress (w v : Work) (h : pass w = .again v) : Progress w v := by
  rcases pass_again w v h with ⟨-, rfl⟩ | ⟨d, -, -, -, rfl⟩
  · exact ⟨.inl rfl, List.prefix_append _ _, .inl rfl⟩
  · exact emitFrame_progress d _ w

theorem pass_stop_progress (w v : Work) (h : pass w = .stop v) : Progress w v := by
  rcases pass_stop w v h with ⟨-, rfl⟩ | ⟨kind, rfl⟩ | ⟨d, -, rfl, -⟩
  · exact .refl _
  · exact ⟨.inr rfl, List.prefix_append _ _, .inl rfl⟩
  · exact ⟨.inl rfl, List.prefix_rfl, .inl rfl⟩

theorem extract_progress (n : Nat) (w r : Work) (h : extract n w = some r) : Progress w r :=
  extract_induction (P := Progress w) (Q := Progress w) (fun v v' hv e => hv.trans (pass_again_progress v v' e))
    (fun v v' hv e => hv.trans (pass_stop_progress v v' e)) n w r (.refl w) h

theorem deliverStart_fsm (chunk : Bytes) (s : State) : (deliverStart chunk s).st.fsm = s.fsm := by
  rw [deliverStart_frame]

theorem deliverStart_lastDescriptor (chunk : Bytes) (s : State) :
    (deliverStart chunk s).st.lastDescriptor = s.lastDescriptor := by
  rw [deliverStart_frame]

/-- R203, R225: every event is handed over if the DELIVER ends in READY or prior events are kept. -/
theorem handedOver_eq_ev (w : Work) (h : w.st.params.fatalKeepsPrior = true ∨ w.st.fsm = .ready) :
    handedOver w = w.ev := by
  rcases h with h | h <;> simp [handedOver, faulted, h]

/-- Settles O57: only CREATE writes `fsm` outside the loop, and inside it every move is to FAULTED. -/
theorem lifecycleMoves : Obligations.LifecycleMoves := by
  intro i s t h
  rcases exec_next i s t h with ⟨r, rfl⟩ | ⟨why, rfl⟩ | ⟨r, rfl, rfl⟩ | ⟨chunk, w, rfl, hf, -, hw, rfl⟩
  · exact .inl rfl
  · exact .inl rfl
  · exact .inr (.inl ⟨r, rfl, rfl⟩)
  · rcases (extract_progress _ _ w hw).fsm with e | e
    · exact .inl (e.trans (deliverStart_fsm chunk s))
    · exact .inr (.inr ⟨chunk, rfl, hf, e⟩)

/-- R24, R151: an instruction keeps the last descriptor, or is a CREATE and clears it, or is a DELIVER that has emitted a
frame. -/
theorem exec_lastDescriptor (i : Instr) (s t : State) (h : exec i s = .next t) :
    t.lastDescriptor = s.lastDescriptor ∨ (∃ r, i = .create r ∧ t.lastDescriptor = none) ∨
      ∃ c, i = .deliver c ∧ t.lastDescriptor.isSome = true ∧ ∃ ev, t.response = .events ev ∧
        (s.params.fatalKeepsPrior = true ∨ t.fsm = .ready → ∃ x, Event.frameReady x ∈ ev) := by
  obtain ⟨hparams, -⟩ := exec_frame i s t h
  rcases exec_next i s t h with ⟨r, rfl⟩ | ⟨why, rfl⟩ | ⟨r, rfl, rfl⟩ | ⟨chunk, w, rfl, -, -, hw, rfl⟩
  · exact .inl rfl
  · exact .inl rfl
  · exact .inr (.inl ⟨r, rfl, rfl⟩)
  · rcases (extract_progress _ _ w hw).descriptor with e | ⟨hsome, hframe⟩
    · exact .inl (e.trans (deliverStart_lastDescriptor chunk s))
    · refine .inr (.inr ⟨chunk, rfl, hsome, handedOver w, rfl, fun hall => ?_⟩)
      rw [handedOver_eq_ev w (hparams ▸ hall)]
      exact hframe

/-- R24, R32: only CREATE clears `has_descriptor`. -/
theorem exec_clears_hasDescriptor (i : Instr) (s t : State) (h : exec i s = .next t) (hs : hasDescriptor s = true)
    (ht : hasDescriptor t = false) : ∃ r, i = .create r := by
  unfold hasDescriptor at hs ht
  rcases exec_lastDescriptor i s t h with e | ⟨r, hi, -⟩ | ⟨c, -, hsome, -⟩
  · simp [e, hs] at ht
  · exact ⟨r, hi⟩
  · simp [hsome] at ht

/-- R24, R32: only a DELIVER sets `has_descriptor`, and it has emitted a frame. -/
theorem exec_sets_hasDescriptor (i : Instr) (s t : State) (h : exec i s = .next t) (hs : hasDescriptor s = false)
    (ht : hasDescriptor t = true) :
    ∃ c, i = .deliver c ∧ ∃ ev, t.response = .events ev ∧
      (s.params.fatalKeepsPrior = true ∨ t.fsm = .ready → ∃ x, Event.frameReady x ∈ ev) := by
  unfold hasDescriptor at hs ht
  rcases exec_lastDescriptor i s t h with e | ⟨r, -, e⟩ | ⟨c, hi, -, hev⟩
  · simp [e, hs] at ht
  · simp [e] at ht
  · exact ⟨c, hi, hev⟩

/-- R26: results and refusals leave the estimate as it is. -/
theorem exec_writes_estimate (i : Instr) (s t : State) (h : exec i s = .next t)
    (hne : t.estFrameSize ≠ s.estFrameSize) : (∃ r, i = .create r) ∨ ∃ c, i = .deliver c := by
  rcases exec_next i s t h with ⟨r, rfl⟩ | ⟨why, rfl⟩ | ⟨r, hi, -⟩ | ⟨chunk, w, hi, -⟩
  · exact absurd rfl hne
  · exact absurd rfl hne
  · exact .inl ⟨r, hi⟩
  · exact .inr ⟨chunk, hi⟩

theorem faulted_eq_true_iff (s : State) : faulted s = true ↔ s.fsm = .faulted := by
  simp [faulted]

theorem faulted_eq_false_iff (s : State) : faulted s = false ↔ s.fsm ≠ .faulted := by
  simp [faulted]

/-- R25, R32: only a DELIVER sets `faulted`. -/
theorem exec_sets_faulted (i : Instr) (s t : State) (h : exec i s = .next t) (hs : faulted s = false)
    (ht : faulted t = true) : ∃ c, i = .deliver c := by
  rw [faulted_eq_false_iff] at hs
  rw [faulted_eq_true_iff] at ht
  rcases lifecycleMoves i s t h with e | ⟨r, -, e⟩ | ⟨c, hi, -⟩
  · exact absurd (e.symm.trans ht) hs
  · cases e.symm.trans ht
  · exact ⟨c, hi⟩

/-- R25, R231: only CREATE clears `faulted`. -/
theorem exec_clears_faulted (i : Instr) (s t : State) (h : exec i s = .next t) (hs : faulted s = true)
    (ht : faulted t = false) : ∃ r, i = .create r := by
  rw [faulted_eq_true_iff] at hs
  rw [faulted_eq_false_iff] at ht
  rcases lifecycleMoves i s t h with e | ⟨r, hi, -⟩ | ⟨c, -, -, e⟩
  · exact absurd (e.trans hs) ht
  · exact ⟨r, hi⟩
  · exact absurd e ht

/-- Settles O59: the writers of the descriptor and the estimate by what an instruction can do, those of `faulted` by
the moves of the lifecycle. -/
theorem descriptorAndEstimateWriters : Obligations.DescriptorAndEstimateWriters := by
  intro i s t h
  exact ⟨exec_clears_hasDescriptor i s t h, exec_sets_hasDescriptor i s t h, exec_writes_estimate i s t h,
    exec_sets_faulted i s t h, exec_clears_faulted i s t h⟩

end Sys2Proof.Machine

namespace Sys2Proof.Machine

/-! ### DELIVER past the capacity -/

/-- R46, R204: a DELIVER in READY whose bytes do not fit is refused. -/
theorem execDeliver_capacity (chunk : Bytes) (s : State) (hf : s.fsm = .ready)
    (hc : fits s.params (s.buffer.length + chunk.length) = false) :
    execDeliver chunk s = .next (refuse .capacity s) := by
  simp [execDeliver, whenReady_ready s _ hf, hc]

/-- Settles O30: the capacity does not admit the bytes, and a refusal writes the result and the refusals only. -/
theorem deliverPastCapacityRefused : Obligations.DeliverPastCapacityRefused := by
  intro chunk s cap hf hcap hlt
  have hfits : ¬fits s.params (s.buffer.length + chunk.length) = true := fun h =>
    hlt.not_ge ((fits_iff _ _).1 h cap hcap)
  exact execDeliver_capacity chunk s hf (Bool.eq_false_iff.2 hfits)

/-! ### Byte accounting along a DELIVER -/

@[simp] theorem payloads_nil : payloads [] = [] := rfl

@[simp] theorem payloads_append (ev ev' : List Event) : payloads (ev ++ ev') = payloads ev ++ payloads ev' :=
  List.flatMap_append

@[simp] theorem payloads_singleton (e : Event) : payloads [e] = e.payload :=
  List.flatMap_singleton ..

/-- R48: the stream bytes that a working copy accounts for, first the ones its events carry and then the buffered
ones. -/
def Work.stream (w : Work) : Bytes :=
  payloads w.ev ++ w.st.buffer

/-- R174: what a resync drops is in its event. -/
theorem resync_stream (w : Work) : (resync w).stream = w.stream := by
  simp [Work.stream, Event.payload, align_append]

/-- R150: what a frame takes from the buffer is in its event, and a descriptor change carries no byte. -/
theorem emitFrame_stream (d : Descriptor) (fs : Nat) (w : Work) : (emitFrame d fs w).stream = w.stream := by
  have hchange : payloads (if w.st.lastDescriptor = some d then [] else [.descriptorChanged d]) = [] := by
    split <;> rfl
  rw [emitFrame_eq]
  simp [Work.stream, Event.payload, hchange, memRead_append_drop]

theorem pass_again_stream (w v : Work) (h : pass w = .again v) : v.stream = w.stream := by
  rcases pass_again w v h with ⟨-, rfl⟩ | ⟨d, -, -, -, rfl⟩
  · exact resync_stream w
  · exact emitFrame_stream d _ w

/-- R48 (c), R224: a Fatal's bytes stay in the buffer. -/
theorem pass_stop_stream (w v : Work) (h : pass w = .stop v) : v.stream = w.stream := by
  rcases pass_stop w v h with ⟨-, rfl⟩ | ⟨kind, rfl⟩ | ⟨d, -, rfl, -⟩
  · rfl
  · simp [Work.stream, Event.payload]
  · rfl

theorem extract_stream (n : Nat) (w r : Work) (h : extract n w = some r) : r.stream = w.stream :=
  extract_induction (P := fun v => v.stream = w.stream) (Q := fun v => v.stream = w.stream)
    (fun v v' hv e => (pass_again_stream v v' e).trans hv) (fun v v' hv e => (pass_stop_stream v v' e).trans hv)
    n w r rfl h

/-- R173, R200: the loop starts with the old buffer and the chunk, of which the proactive align has dropped a part. -/
theorem deliverStart_stream (chunk : Bytes) (s : State) : (deliverStart chunk s).stream = s.buffer ++ chunk := by
  have hcut := align_append (s.buffer ++ chunk) 0
  rw [Work.stream, deliverStart_ev, deliverStart_frame]
  cases s.resyncEnabled with
  | false => simp
  | true =>
    by_cases hd : (align (s.buffer ++ chunk) 0).1 = []
    · simpa [hd] using hcut
    · simpa [hd, Event.payload] using hcut

/-- R199, R204: a DELIVER that hands over events has run its loop and committed. -/
theorem exec_deliver_events (chunk : Bytes) (s t : State) (ev : List Event) (h : exec (.deliver chunk) s = .next t)
    (hev : t.response = .events ev) :
    ∃ w, extract ((deliverStart chunk s).st.buffer.length + 1) (deliverStart chunk s) = some w ∧ t = commit w ∧
      ev = handedOver w := by
  rcases execDeliver_next chunk s t h with ⟨-, rfl⟩ | ⟨-, rfl⟩ | ⟨-, -, rfl⟩ | ⟨-, -, w, hw, rfl⟩
  · cases hev
  · cases hev
  · cases hev
  · exact ⟨w, hw, rfl, (Response.events.inj hev).symm⟩

/-- Settles O43: the stream of the working copy is the old buffer and the chunk from the append to the commit, which
hands over every event here. -/
theorem deliverAccountsForEveryByte : Obligations.DeliverAccountsForEveryByte := by
  rintro chunk s t ev - h hev hall
  obtain ⟨hparams, -⟩ := exec_frame _ s t h
  obtain ⟨w, hw, rfl, rfl⟩ := exec_deliver_events chunk s t ev h hev
  rw [handedOver_eq_ev w (hparams ▸ hall)]
  exact (extract_stream _ _ w hw).trans (deliverStart_stream chunk s)

/-! ### The fields that no instruction reads

The queue, the last result and the refusals are the model's own fields (log entries 3, 4, 5). Replacing them commutes
with every operation of a DELIVER, and an instruction adds to the refusals without reading them. -/

section unread

variable (q : List Transaction) (old : Response) (past : List RefuseReason)

/-- The state with the three fields replaced. -/
def State.withUnread (s : State) : State :=
  { s with hostQueue := q, response := old, refusals := past }

/-- The working copy with the three fields replaced. -/
def Work.withUnread (w : Work) : Work :=
  { w with st := w.st.withUnread q old past }

/-- The pass's result with the three fields replaced. -/
def PassResult.withUnread : PassResult → PassResult
  | .again w => .again (w.withUnread q old past)
  | .stop w => .stop (w.withUnread q old past)

section readFields

variable (w : Work)

@[simp] theorem withUnread_params : (w.withUnread q old past).st.params = w.st.params := rfl
@[simp] theorem withUnread_resyncEnabled : (w.withUnread q old past).st.resyncEnabled = w.st.resyncEnabled := rfl
@[simp] theorem withUnread_buffer : (w.withUnread q old past).st.buffer = w.st.buffer := rfl

end readFields

theorem deliverStart_withUnread (chunk : Bytes) (s : State) :
    deliverStart chunk (s.withUnread q old past) = (deliverStart chunk s).withUnread q old past := by
  have hst : (deliverStart chunk (s.withUnread q old past)).st = (deliverStart chunk s).st.withUnread q old past := by
    rw [deliverStart_frame, deliverStart_frame]
    rfl
  have hev : (deliverStart chunk (s.withUnread q old past)).ev = (deliverStart chunk s).ev := by
    rw [deliverStart_ev, deliverStart_ev]
    rfl
  exact congrArg₂ Work.mk hst hev

theorem onFailure_withUnread (kind : ErrorKind) (w : Work) :
    onFailure kind (w.withUnread q old past) = (onFailure kind w).withUnread q old past := by
  cases hr : w.st.resyncEnabled <;> simp only [onFailure, withUnread_resyncEnabled, hr] <;> rfl

theorem emitFrame_withUnread (d : Descriptor) (fs : Nat) (w : Work) :
    emitFrame d fs (w.withUnread q old past) = (emitFrame d fs w).withUnread q old past := by
  rw [emitFrame_eq, emitFrame_eq]
  rfl

theorem framePass_withUnread (d : Descriptor) (w : Work) :
    framePass d (w.withUnread q old past) = (framePass d w).withUnread q old past := by
  by_cases hlt : w.st.buffer.length < frameSize w.st.params d
  · simp only [framePass, withUnread_params, withUnread_buffer, hlt, if_true]
    rfl
  · simp only [framePass, withUnread_params, withUnread_buffer, hlt, if_false]
    cases guardCheck w.st.params (w.st.buffer.drop (frameSize w.st.params d)) with
    | wait => rfl
    | fail => exact onFailure_withUnread q old past _ w
    | pass => exact congrArg PassResult.again (emitFrame_withUnread q old past d _ w)

/-- R140, R152: a pass reads the buffer, the parameters and the resync flag, and writes none of the three fields. -/
theorem pass_withUnread (w : Work) : pass (w.withUnread q old past) = (pass w).withUnread q old past := by
  simp only [pass, withUnread_params, withUnread_buffer]
  cases loopState w.st.buffer with
  | empty => rfl
  | needMore => rfl
  | misaligned => rfl
  | haveHeader word =>
    cases hd : decodeHeader w.st.params word with
    | invalidHeader => simpa only [hd] using onFailure_withUnread q old past _ w
    | ok d => simpa only [hd] using framePass_withUnread q old past d w

/-- R152: the two loops run pass by pass alike. -/
theorem extract_withUnread (n : Nat) (w r : Work) (h : extract n w = some r) :
    extract n (w.withUnread q old past) = some (r.withUnread q old past) := by
  induction n generalizing w with
  | zero => cases h
  | succ n ih =>
    rw [extract_succ] at h ⊢
    rw [pass_withUnread]
    cases hp : pass w with
    | again v =>
      rw [hp] at h
      exact ih v h
    | stop v =>
      rw [hp] at h
      cases h
      rfl

end unread

/-- R50: `o`, an outcome from `s`, and `o'`, one from a state with queue `q` and refusals `past`, have the same record
and result and add the same refusals, and `o'` has kept its queue. -/
def AnswersAlike (q : List Transaction) (past : List RefuseReason) (s : State)
    (o o' : Host.Outcome State Fault Refusal) : Prop :=
  ∀ s', o = .next s' → ∃ new, s'.refusals = s.refusals ++ new ∧
    o' = .next { s' with hostQueue := q, refusals := past ++ new }

section answers

variable (q : List Transaction) (old : Response) (past : List RefuseReason) (s : State)

/-- Two next states that refuse nothing. -/
theorem answersAlike_of_same_refusals (s' t' : State) (hr : s'.refusals = s.refusals)
    (ht : t' = { s' with hostQueue := q, refusals := past }) : AnswersAlike q past s (.next s') (.next t') := by
  rintro _ ⟨⟩
  exact ⟨[], by simpa using hr, by simp [ht]⟩

theorem answersAlike_respond (r : Response) :
    AnswersAlike q past s (.next (respond r s)) (.next (respond r (s.withUnread q old past))) :=
  answersAlike_of_same_refusals q past s _ _ rfl rfl

theorem answersAlike_refuse (why : RefuseReason) :
    AnswersAlike q past s (.next (refuse why s)) (.next (refuse why (s.withUnread q old past))) := by
  rintro _ ⟨⟩
  exact ⟨[why], rfl, rfl⟩

/-- R190: which of the three ways a command takes is up to `fsm`. -/
theorem answersAlike_whenReady (run run' : Host.Outcome State Fault Refusal) (h : AnswersAlike q past s run run') :
    AnswersAlike q past s (whenReady s run) (whenReady (s.withUnread q old past) run') := by
  cases hf : s.fsm with
  | uninit =>
    rw [whenReady_uninit s _ hf, whenReady_uninit (s.withUnread q old past) _ hf]
    exact answersAlike_refuse q old past s _
  | ready => rwa [whenReady_ready s _ hf, whenReady_ready (s.withUnread q old past) _ hf]
  | faulted =>
    rw [whenReady_faulted s _ hf, whenReady_faulted (s.withUnread q old past) _ hf]
    exact answersAlike_refuse q old past s _

/-- R203: a DELIVER that runs gives the same events and the same record. -/
theorem answersAlike_deliverRun (chunk : Bytes) :
    AnswersAlike q past s (deliverRun (deliverStart chunk s))
      (deliverRun (deliverStart chunk (s.withUnread q old past))) := by
  rw [deliverStart_withUnread]
  simp only [deliverRun, withUnread_buffer]
  cases hw : extract ((deliverStart chunk s).st.buffer.length + 1) (deliverStart chunk s) with
  | none =>
    intro s' h
    cases h
  | some w =>
    have same := (deliverStart_sameSetup chunk s).trans (extract_sameSetup _ _ w hw)
    rw [extract_withUnread q old past _ _ w hw]
    exact answersAlike_of_same_refusals q past s (commit w) _ same.refusals rfl

/-- R50: every instruction answers a result, a refusal or a new record, the same one from both states. -/
theorem exec_answersAlike (i : Instr) : AnswersAlike q past s (exec i s) (exec i (s.withUnread q old past)) := by
  cases i with
  | create r => exact answersAlike_of_same_refusals q past s (created r s) _ rfl rfl
  | demand n => exact answersAlike_whenReady q old past s _ _ (answersAlike_respond q old past s _)
  | deliver chunk =>
    refine answersAlike_whenReady q old past s _ _ ?_
    change AnswersAlike q past s _ (if fits s.params (s.buffer.length + chunk.length) = true then _ else _)
    split
    · exact answersAlike_deliverRun q old past s chunk
    · exact answersAlike_refuse q old past s _
  | _ => exact answersAlike_respond q old past s _

end answers

/-- Settles O56: `exec_answersAlike`, for the state with the three fields replaced. -/
theorem resultsDependOnlyOnTheRecord : Obligations.ResultsDependOnlyOnTheRecord := by
  intro i s s' q old past h
  exact exec_answersAlike q old past s i s' h

end Sys2Proof.Machine

namespace Sys2Proof

/-! ### Header words and their codes (30_encoding.md R60 to R63) -/

/-- R61, R63: slicing a packed header gives back every code below the layer's. -/
theorem rawFields_packHeader (ver layer : BitVec 2) (f : HdrFields) : rawFields (packHeader ver layer f) = f := by
  simp (disch := decide) only [rawFields, packHeader, BitVec.extractLsb'_append_eq_of_le,
    BitVec.extractLsb'_append_eq_of_add_le]
  simp

/-- R61, R62: a word with the sync pattern is packed from its own codes, since the slices are adjacent. -/
theorem packHeader_codes (w : Word) (h : syncMatch w = true) :
    packHeader (verCode w) (layerCode w) (rawFields w) = w := by
  have hs : 0x7FF#11 = w.extractLsb' 21 11 := (beq_iff_eq.1 h).symm
  simp (disch := decide) only [packHeader, hs, verCode, layerCode, rawFields,
    BitVec.extractLsb'_append_extractLsb'_eq_extractLsb']
  exact BitVec.extractLsb'_eq_self

theorem syncMatch_eq_true_iff (w : Word) : syncMatch w = true ↔ syncField w = 0x7FF :=
  beq_iff_eq

theorem syncMatch_packHeader (ver layer : BitVec 2) (f : HdrFields) : syncMatch (packHeader ver layer f) = true :=
  (syncMatch_eq_true_iff _).2 (syncField_packHeader ver layer f)

/-- R62: the top three bits are set in the bytes from 0xE0 up. -/
theorem and_topThree_iff (b : Byte) : b &&& 0xE0 = 0xE0 ↔ 224 ≤ b.toNat := by
  revert b
  decide

theorem syncBytesOk_iff (b0 b1 : Byte) : syncBytesOk b0 b1 = true ↔ b0 = 0xFF ∧ b1 &&& 0xE0 = 0xE0 := by
  simp [syncBytesOk]

/-- R62: the sync field is the first byte and the top three bits of the second. -/
theorem syncMatch_be32_iff (b0 b1 b2 b3 : Byte) :
    syncMatch (be32 b0 b1 b2 b3) = true ↔ b0 = 0xFF ∧ b1 &&& 0xE0 = 0xE0 := by
  rw [syncMatch_eq_true_iff, and_topThree_iff, ← BitVec.toNat_inj, ← BitVec.toNat_inj, syncField,
    BitVec.extractLsb'_toNat, be32_toNat, Nat.shiftRight_eq_div_pow]
  have := b1.isLt
  change _ / 2 ^ 21 % 2 ^ 11 = 2047 ↔ b0.toNat = 255 ∧ _
  omega

/-! ### The decoder by formats (30_encoding.md R79, R84) -/

theorem decode_headerTransaction (w : Word) : decode (headerTransaction w) = decodeHeaderWord w := by
  simp only [headerTransaction, decode, be32_wordByte]

theorem headerTransaction_be32 (b0 b1 b2 b3 : Byte) : headerTransaction (be32 b0 b1 b2 b3) = .header b0 b1 b2 b3 := by
  simp only [headerTransaction, wordByte_be32]

/-- R84: a header word belongs to a row exactly if it carries the sync pattern, and its codes say to which. -/
theorem decodeHeaderWord_ok_iff (w : Word) (i : Instr) :
    decodeHeaderWord w = .ok i ↔ syncMatch w = true ∧ i = rowOfCodes (verCode w) (layerCode w) (rawFields w) := by
  unfold decodeHeaderWord
  split
  · simp [*, eq_comm]
  · simp [*]

theorem decodeHeaderWord_syncMismatch_iff (w : Word) :
    decodeHeaderWord w = .error .syncMismatch ↔ syncField w ≠ 0x7FF := by
  unfold decodeHeaderWord
  split <;> simp_all [syncMatch_eq_true_iff]

theorem decodeHeaderWord_packHeader (ver layer : BitVec 2) (f : HdrFields) :
    decodeHeaderWord (packHeader ver layer f) = .ok (rowOfCodes ver layer f) := by
  rw [decodeHeaderWord_ok_iff, verCode_packHeader, layerCode_packHeader, rawFields_packHeader]
  exact ⟨syncMatch_packHeader ver layer f, rfl⟩

theorem decode_packHeader (ver layer : BitVec 2) (f : HdrFields) :
    decode (headerTransaction (packHeader ver layer f)) = .ok (rowOfCodes ver layer f) :=
  (decode_headerTransaction _).trans (decodeHeaderWord_packHeader ver layer f)

/-- Settles O1: a header row is the row of the codes it is packed from, and a command's opcode selects its lane. -/
theorem decodeEncodeRoundTrip : Obligations.DecodeEncodeRoundTrip := by
  intro i
  cases i with
  | hdrMpeg1L1 f => exact decode_packHeader 0b11 0b11 f
  | hdrMpeg1L2 f => exact decode_packHeader 0b11 0b10 f
  | hdrMpeg1L3 f => exact decode_packHeader 0b11 0b01 f
  | hdrMpeg2L1 f => exact decode_packHeader 0b10 0b11 f
  | hdrMpeg2L2 f => exact decode_packHeader 0b10 0b10 f
  | hdrMpeg2L3 f => exact decode_packHeader 0b10 0b01 f
  | hdrInvalidVer00 layer f => exact decode_packHeader 0b00 layer f
  | hdrInvalidVer01 layer f => exact decode_packHeader 0b01 layer f
  | hdrInvalidMpeg1Layer00 f => exact decode_packHeader 0b11 0b00 f
  | hdrInvalidMpeg2Layer00 f => exact decode_packHeader 0b10 0b00 f
  | create r => rfl
  | demand n => rfl
  | deliver chunk => rfl
  | decode w => rfl

end Sys2Proof

namespace Sys2Proof

/-! ### The encoder's image (30_encoding.md R61, R62, R79) -/

theorem code_cases (c : BitVec 2) : c = 0b00 ∨ c = 0b01 ∨ c = 0b10 ∨ c = 0b11 := by
  revert c
  decide

/-- R84: the row of a version and a layer code is packed with these codes. -/
theorem encode_rowOfCodes (ver layer : BitVec 2) (f : HdrFields) :
    encode (rowOfCodes ver layer f) = headerTransaction (packHeader ver layer f) := by
  rcases code_cases ver with rfl | rfl | rfl | rfl
  · rfl
  · rfl
  · rcases code_cases layer with rfl | rfl | rfl | rfl <;> rfl
  · rcases code_cases layer with rfl | rfl | rfl | rfl <;> rfl

/-- R61, R62: a header that decodes is the encoding of what it decodes to. -/
theorem encode_of_decode_header (b0 b1 b2 b3 : Byte) (i : Instr) (h : decode (.header b0 b1 b2 b3) = .ok i) :
    encode i = .header b0 b1 b2 b3 := by
  obtain ⟨hs, rfl⟩ := (decodeHeaderWord_ok_iff _ i).1 h
  rw [encode_rowOfCodes, packHeader_codes _ hs, headerTransaction_be32]

theorem wf_header_iff (b0 b1 b2 b3 : Byte) :
    (Transaction.header b0 b1 b2 b3).wf = true ↔ syncMatch (be32 b0 b1 b2 b3) = true := by
  rw [Transaction.wf, syncBytesOk_iff, syncMatch_be32_iff]

theorem wf_packHeader (ver layer : BitVec 2) (f : HdrFields) :
    (headerTransaction (packHeader ver layer f)).wf = true := by
  rw [headerTransaction, wf_header_iff, be32_wordByte]
  exact syncMatch_packHeader ver layer f

theorem encode_wf (i : Instr) : (encode i).wf = true := by
  cases i with
  | create r => rfl
  | demand n => rfl
  | deliver chunk => rfl
  | decode w => rfl
  | _ => exact wf_packHeader _ _ _

/-- R79: the four opcodes, and no others, are known. -/
theorem opcodeKnown_iff (op : Byte) : opcodeKnown op = true ↔ op = 0x01 ∨ op = 0x02 ∨ op = 0x03 ∨ op = 0x04 := by
  simp [opcodeKnown, or_assoc]

/-- R79: a command whose unread lanes are zero is the encoding of the command that its opcode selects. -/
theorem exists_encode_eq_command (op : Byte) (o : Operands) (h : (Transaction.command op o).wf = true) :
    ∃ i, decode (.command op o) = .ok i ∧ encode i = .command op o := by
  obtain ⟨hop, hlanes⟩ := Bool.and_eq_true_iff.1 h
  obtain ⟨r, n, chunk, w⟩ := o
  rcases (opcodeKnown_iff op).1 hop with rfl | rfl | rfl | rfl
  · obtain ⟨⟨rfl, rfl⟩, rfl⟩ : (n = 0 ∧ chunk = []) ∧ w = 0 := by simpa [Operands.unreadLanesZero] using hlanes
    exact ⟨.create r, rfl, rfl⟩
  · obtain ⟨⟨rfl, rfl⟩, rfl⟩ : (r = false ∧ chunk = []) ∧ w = 0 := by simpa [Operands.unreadLanesZero] using hlanes
    exact ⟨.demand n, rfl, rfl⟩
  · obtain ⟨⟨rfl, rfl⟩, rfl⟩ : (r = false ∧ n = 0) ∧ w = 0 := by simpa [Operands.unreadLanesZero] using hlanes
    exact ⟨.deliver chunk, rfl, rfl⟩
  · obtain ⟨⟨rfl, rfl⟩, rfl⟩ : (r = false ∧ n = 0) ∧ chunk = [] := by simpa [Operands.unreadLanesZero] using hlanes
    exact ⟨.decode w, rfl, rfl⟩

/-- Settles O2: `encode_wf`, and a well-formed transaction is packed from its codes or is a command with zero unread
lanes. -/
theorem encodingsAreTheWellFormedTransactions : Obligations.EncodingsAreTheWellFormedTransactions := by
  refine ⟨encode_wf, fun t h => ?_⟩
  cases t with
  | header b0 b1 b2 b3 =>
    have hd := (decodeHeaderWord_ok_iff _ _).2 ⟨(wf_header_iff b0 b1 b2 b3).1 h, rfl⟩
    exact ⟨_, hd, encode_of_decode_header b0 b1 b2 b3 _ hd⟩
  | command op o => exact exists_encode_eq_command op o h

/-- Settles O3: the sync field as bits and as bytes, and the mismatch as its only rejection of a header. -/
theorem syncFieldMatchesIff : Obligations.SyncFieldMatchesIff := fun b0 b1 b2 b3 =>
  ⟨syncMatch_eq_true_iff _, syncMatch_be32_iff b0 b1 b2 b3, decodeHeaderWord_syncMismatch_iff _⟩

/-! ### Commands (30_encoding.md R79) -/

theorem decodeCommand_unknown (op : Byte) (o : Operands) (h : opcodeKnown op = false) :
    decodeCommand op o = .error (.unknownOpcode op) := by
  simp_all [decodeCommand, opcodeKnown]

/-- Settles O4: `decodeCommand` compares the opcode with the four it knows. -/
theorem opcodesSelectCommands : Obligations.OpcodesSelectCommands := by
  refine fun o => ⟨rfl, rfl, rfl, rfl, fun op h => decodeCommand_unknown op o ?_⟩
  rw [Bool.eq_false_iff, Ne, opcodeKnown_iff]
  simpa using h

/-- Settles O6: the decoder evaluates on the six transactions. -/
theorem writtenWordsDecode : Obligations.WrittenWordsDecode :=
  ⟨by decide, by decide, by decide, by decide, by decide, by decide⟩

/-! ### The rows of the opcode table (30_encoding.md R84) -/

theorem decode_opcodeKnown (op : Byte) (o : Operands) (i : Instr) (h : decode (.command op o) = .ok i) :
    opcodeKnown op = true := by
  by_contra hop
  cases (decodeCommand_unknown op o (by simpa using hop)).symm.trans h

/-- What a transaction decodes to is encoded with the same table bits: lanes are not among them. -/
theorem tableBits_encode_of_decode (t : Transaction) (i : Instr) (h : decode t = .ok i) :
    (encode i).tableBits = t.tableBits := by
  cases t with
  | header b0 b1 b2 b3 => rw [encode_of_decode_header b0 b1 b2 b3 i h]
  | command op o =>
    rcases (opcodeKnown_iff op).1 (decode_opcodeKnown op o i h) with rfl | rfl | rfl | rfl <;> cases h <;> rfl

theorem tableBits_encode_mask (i : Instr) : (encode i).tableBits &&& i.row.mask = i.row.pattern := by
  cases i with
  | hdrMpeg1L1 f => exact Laws.TableRow.hdrMpeg1L1 f
  | hdrMpeg1L2 f => exact Laws.TableRow.hdrMpeg1L2 f
  | hdrMpeg1L3 f => exact Laws.TableRow.hdrMpeg1L3 f
  | hdrMpeg2L1 f => exact Laws.TableRow.hdrMpeg2L1 f
  | hdrMpeg2L2 f => exact Laws.TableRow.hdrMpeg2L2 f
  | hdrMpeg2L3 f => exact Laws.TableRow.hdrMpeg2L3 f
  | hdrInvalidVer00 layer f => exact Laws.TableRow.hdrInvalidVer00 layer f
  | hdrInvalidVer01 layer f => exact Laws.TableRow.hdrInvalidVer01 layer f
  | hdrInvalidMpeg1Layer00 f => exact Laws.TableRow.hdrInvalidMpeg1Layer00 f
  | hdrInvalidMpeg2Layer00 f => exact Laws.TableRow.hdrInvalidMpeg2Layer00 f
  | create r => exact Laws.TableRow.create r
  | demand n => exact Laws.TableRow.demand n
  | deliver chunk => exact Laws.TableRow.deliver chunk
  | decode w => exact Laws.TableRow.decode w

/-- One instruction of each row. -/
def oneOfEachRow : List Instr :=
  let f : HdrFields := ⟨0, 0, 0, 0, 0, 0, 0, 0, 0, 0⟩
  [.hdrMpeg1L1 f, .hdrMpeg1L2 f, .hdrMpeg1L3 f, .hdrMpeg2L1 f, .hdrMpeg2L2 f, .hdrMpeg2L3 f, .hdrInvalidVer00 0 f,
    .hdrInvalidVer01 0 f, .hdrInvalidMpeg1Layer00 f, .hdrInvalidMpeg2Layer00 f, .create false, .demand 0, .deliver [],
    .decode 0]

theorem row_mem_rows (i : Instr) : i.row ∈ oneOfEachRow.map Instr.row := by
  cases i <;> simp [oneOfEachRow, Instr.row]

/-- Two rows of one width that agree where both masks look are the same row. -/
theorem rows_agree_only_with_themselves :
    ∀ r ∈ oneOfEachRow.map Instr.row, ∀ r' ∈ oneOfEachRow.map Instr.row, r'.width = r.width →
      r.pattern &&& r'.mask = r'.pattern &&& r.mask → r' = r := by
  decide

/-- Settles O5: bits that match two rows make their patterns agree where both masks look. -/
theorem tableRowsSplitTheWords : Obligations.TableRowsSplitTheWords := by
  intro t i h
  have own : t.tableBits &&& i.row.mask = i.row.pattern :=
    tableBits_encode_of_decode t i h ▸ tableBits_encode_mask i
  refine ⟨own, fun j hw hj => rows_agree_only_with_themselves _ (row_mem_rows i) _ (row_mem_rows j) hw ?_⟩
  calc i.row.pattern &&& j.row.mask = (t.tableBits &&& i.row.mask) &&& j.row.mask := by rw [own]
    _ = (t.tableBits &&& j.row.mask) &&& i.row.mask := Nat.and_right_comm ..
    _ = j.row.pattern &&& i.row.mask := by rw [hj]

end Sys2Proof

namespace Sys2Proof.Machine

/-! ### What the field lookups refuse (30_encoding.md R64 to R75) -/

theorem lookupVersion_eq_none_iff (code : BitVec 2) : lookupVersion code = none ↔ code = 0b00 ∨ code = 0b01 := by
  revert code
  decide

theorem lookupLayer_eq_none_iff (code : BitVec 2) : lookupLayer code = none ↔ code = 0b00 := by
  revert code
  decide

theorem lookupSampleRate_eq_none_iff (v : Version) (code : BitVec 2) : lookupSampleRate v code = none ↔ code = 0b11 := by
  revert code
  cases v <;> decide

theorem lookupEmphasis_eq_none_iff (code : BitVec 2) : lookupEmphasis code = none ↔ code = 0b10 := by
  revert code
  decide

/-- R67, R105: only the indices 0 (`free`) and 15 (`invalid`) have no bitrate. -/
theorem lookupBitrate_ne_kbps_iff (v : Version) (l : Layer) (index : BitVec 4) :
    (∀ n, lookupBitrate v l index ≠ .kbps n) ↔ index = 0 ∨ index = 15 := by
  have entries : ∀ index, lookupBitrate v l index = .free ∨ lookupBitrate v l index = .invalid ↔
      index = 0 ∨ index = 15 := by
    cases v <;> cases l <;> decide
  rw [← entries]
  cases lookupBitrate v l index <;> simp

/-- R75 (d), (e), (f): from the bitrate lookup on, a header is invalid exactly for these codes. -/
theorem decodeFields_invalidHeader_iff (p : Params) (v : Version) (l : Layer) (f : HdrFields) :
    decodeFields p v l f = .invalidHeader ↔
      (f.brIndex = 0 ∨ f.brIndex = 15) ∨ f.srIndex = 0b11 ∨ f.emphCode = 0b10 := by
  rw [← lookupBitrate_ne_kbps_iff v l, ← lookupSampleRate_eq_none_iff v, ← lookupEmphasis_eq_none_iff, decodeFields]
  cases lookupBitrate v l f.brIndex with
  | free => simp
  | invalid => simp
  | kbps kbps => cases lookupSampleRate v f.srIndex <;> cases lookupEmphasis f.emphCode <;> simp

/-- R110 behind the sync test: what the decoder answers for a version code, a layer code and the other fields. -/
def decodeCodes (p : Params) (ver layer : BitVec 2) (f : HdrFields) : DecodeResult :=
  match lookupVersion ver with
  | none => .invalidHeader
  | some v =>
    match lookupLayer layer with
    | none => .invalidHeader
    | some l => decodeFields p v l f

theorem decodeHeader_of_syncMatch (p : Params) (w : Word) (h : syncMatch w = true) :
    decodeHeader p w = decodeCodes p (verCode w) (layerCode w) (rawFields w) :=
  if_neg (by simp [h])

/-- R75 (b) to (f). -/
theorem decodeCodes_invalidHeader_iff (p : Params) (ver layer : BitVec 2) (f : HdrFields) :
    decodeCodes p ver layer f = .invalidHeader ↔
      (ver = 0b00 ∨ ver = 0b01) ∨ layer = 0b00 ∨
        (f.brIndex = 0 ∨ f.brIndex = 15) ∨ f.srIndex = 0b11 ∨ f.emphCode = 0b10 := by
  rw [← lookupVersion_eq_none_iff, ← lookupLayer_eq_none_iff, decodeCodes]
  cases lookupVersion ver with
  | none => simp
  | some v =>
    cases lookupLayer layer with
    | none => simp
    | some l => simp [decodeFields_invalidHeader_iff p v l f]

/-- R75: a word is invalid exactly if its sync field is not 0x7FF or one of its codes has no entry. -/
theorem decodeHeader_invalidHeader_iff (p : Params) (w : Word) :
    decodeHeader p w = .invalidHeader ↔
      syncField w ≠ 0x7FF ∨ (verCode w = 0b00 ∨ verCode w = 0b01) ∨ layerCode w = 0b00 ∨
        ((rawFields w).brIndex = 0 ∨ (rawFields w).brIndex = 15) ∨ (rawFields w).srIndex = 0b11 ∨
          (rawFields w).emphCode = 0b10 := by
  rw [← decodeCodes_invalidHeader_iff p, Ne, ← syncMatch_eq_true_iff]
  by_cases h : syncMatch w = true
  · simp [decodeHeader_of_syncMatch p w h, h]
  · simp [decodeHeader, h]

/-- Settles O10: the field codes are bits of the word, and a word that is not invalid decodes to a valid descriptor. -/
theorem headerInvalidIff : Obligations.HeaderInvalidIff := by
  refine fun p w => ⟨decodeHeader_invalidHeader_iff p w, fun h => ?_⟩
  cases hd : decodeHeader p w with
  | invalidHeader => exact absurd hd h
  | ok d => exact ⟨d, rfl, decodeHeader_ok_valid p w d hd⟩

/-- Settles O8: each table has four codes. -/
theorem codeTablesAsWritten : Obligations.CodeTablesAsWritten :=
  ⟨by decide, by decide, by decide, by decide, by decide⟩

/-- Settles O9: a bitrate column for each version and layer, and the two columns of sample rates. -/
theorem rateTablesAsWritten : Obligations.RateTablesAsWritten := by
  refine ⟨fun v l => ?_, by decide, by decide⟩
  cases v <;> cases l <;> decide

/-! ### Running a header row (30_encoding.md R84, 40_header_decoder.md R110) -/

theorem headerOutcome_invalidHeader (s : State) :
    headerOutcome .invalidHeader s = .next { s with response := .decoded .invalidHeader } := rfl

/-- R84, R110: the row of a version and a layer code answers what the decoder answers for these codes. -/
theorem exec_rowOfCodes (ver layer : BitVec 2) (f : HdrFields) (s : State) :
    exec (rowOfCodes ver layer f) s = headerOutcome (decodeCodes s.params ver layer f) s := by
  rcases code_cases ver with rfl | rfl | rfl | rfl
  · rfl
  · rfl
  · rcases code_cases layer with rfl | rfl | rfl | rfl <;> rfl
  · rcases code_cases layer with rfl | rfl | rfl | rfl <;> rfl

/-- Settles O22: the word's row is the row of its codes. -/
theorem headerRowsAgreeWithDecoder : Obligations.HeaderRowsAgreeWithDecoder := by
  intro w i s h
  obtain ⟨hs, rfl⟩ := (decodeHeaderWord_ok_iff w i).1 h
  rw [exec_rowOfCodes, ← decodeHeader_of_syncMatch s.params w hs]
  cases decodeHeader s.params w <;> rfl

/-- Settles O24: the six rows run `decodeFields` with their own version and layer. -/
theorem illegalFieldsGiveInvalidHeader : Obligations.IllegalFieldsGiveInvalidHeader := by
  intro f s illegal
  have row (v : Version) (l : Layer) : headerOutcome (decodeFields s.params v l f) s =
      .next { s with response := .decoded .invalidHeader } := by
    rw [(decodeFields_invalidHeader_iff s.params v l f).2 (or_assoc.2 illegal), headerOutcome_invalidHeader]
  simp only [List.forall_mem_cons]
  exact ⟨row .mpeg1 .I, row .mpeg1 .II, row .mpeg1 .III, row .mpeg2 .I, row .mpeg2 .II, row .mpeg2 .III, nofun⟩

/-- Settles O25: the four rows answer `invalid_header` without reading a field. -/
theorem invalidHeaderRowsComplete : Obligations.InvalidHeaderRowsComplete := by
  intro layer f s
  simp only [List.forall_mem_cons]
  exact ⟨rfl, rfl, rfl, rfl, nofun⟩

end Sys2Proof.Machine

namespace Sys2Proof.Machine

/-! ### The extractor loop ends (41_frame_extractor.md R153) -/

theorem align_one_kept_length_lt (b : Bytes) (h : b ≠ []) : (align b 1).2.length < b.length := by
  have := List.length_pos_iff.2 h
  rw [align_snd, List.length_drop, List.length_drop]
  omega

/-- R152: the Empty test ends the loop. -/
theorem pass_of_empty (w : Work) (h : w.st.buffer = []) : pass w = .stop w := by
  simp [pass, loopState, h]

/-- R153: a pass that goes on has taken bytes from the buffer, by a resync at least one and by a frame its size. -/
theorem pass_again_length_lt (w v : Work) (h : pass w = .again v) : v.st.buffer.length < w.st.buffer.length := by
  have hb : w.st.buffer ≠ [] := fun hb => by cases (pass_of_empty w hb).symm.trans h
  rcases pass_again w v h with ⟨-, rfl⟩ | ⟨d, hd, -, -, rfl⟩
  · exact align_one_kept_length_lt _ hb
  · have size := frameSize_ge w.st.params d (headerOf_valid _ _ d hd)
    have := List.length_pos_iff.2 hb
    rw [emitFrame_eq, List.length_drop]
    omega

/-- R153: more passes than the buffer has bytes are enough. -/
theorem extract_ends (n : Nat) (w : Work) (h : w.st.buffer.length < n) : ∃ r, extract n w = some r := by
  induction n generalizing w with
  | zero => omega
  | succ n ih =>
    rw [extract_succ]
    cases hp : pass w with
    | stop v => exact ⟨v, rfl⟩
    | again v => exact ih v (by have := pass_again_length_lt w v hp; omega)

/-! ### Every instruction and every step answers (30_encoding.md R84, 60_exceptions.md R230, R238) -/

theorem whenReady_answers (s : State) (run : Host.Outcome State Fault Refusal) (h : ∃ t, run = .next t) :
    ∃ t, whenReady s run = .next t := by
  cases hf : s.fsm with
  | uninit => exact ⟨_, whenReady_uninit s run hf⟩
  | faulted => exact ⟨_, whenReady_faulted s run hf⟩
  | ready => rwa [whenReady_ready s run hf]

/-- R202, R203: the loop has one pass more than the buffer has bytes, so it ends and the DELIVER commits. -/
theorem deliverRun_answers (w : Work) : ∃ t, deliverRun w = .next t := by
  obtain ⟨r, hr⟩ := extract_ends (w.st.buffer.length + 1) w (Nat.lt_succ_self _)
  exact ⟨commit r, by simp [deliverRun, hr]⟩

theorem exec_answers (i : Instr) (s : State) : ∃ t, exec i s = .next t := by
  cases i with
  | demand n => exact whenReady_answers s _ ⟨_, rfl⟩
  | deliver chunk =>
    refine whenReady_answers s _ ?_
    split
    · exact deliverRun_answers _
    · exact ⟨_, rfl⟩
  | _ => exact ⟨_, rfl⟩

/-- Settles O34: a step is idle, runs an instruction or rejects a transaction, and `exec_answers`. -/
theorem everyStepAnswersANextState : Obligations.EveryStepAnswersANextState := by
  intro s
  rcases step_cases s with ⟨-, e⟩ | ⟨x, rest, -, ⟨i, -, e⟩ | ⟨err, -, e⟩⟩ <;> rw [e]
  · exact ⟨s, rfl⟩
  · exact exec_answers i _
  · exact ⟨_, rfl⟩

theorem step_of_decode_error (s : State) (t : Transaction) (rest : List Transaction) (e : DecodeError)
    (hq : s.hostQueue = t :: rest) (h : decode t = .error e) :
    step s = .next (rejected e { s with hostQueue := rest }) := by
  simp [step, fetch, hq, h]

/-- Settles O32: a result for the sync mismatch, and a refusal for the opcode. -/
theorem stepOnUnencodedTransactions : Obligations.StepOnUnencodedTransactions := fun s t rest hq =>
  ⟨step_of_decode_error s t rest _ hq, fun _ => step_of_decode_error s t rest _ hq⟩

/-! ### The port (30_encoding.md R80 to R82) -/

theorem versionCode_injective : Function.Injective Version.code := by
  intro v v'
  cases v <;> cases v' <;> simp [Version.code]

theorem layerCode_injective : Function.Injective Layer.code := by
  intro l l'
  cases l <;> cases l' <;> simp [Layer.code]

theorem channelModeCode_injective : Function.Injective ChannelMode.code := by
  intro m m'
  cases m <;> cases m' <;> simp [ChannelMode.code]

theorem emphasisCode_injective : Function.Injective Emphasis.code := by
  intro e e'
  cases e <;> cases e' <;> simp [Emphasis.code]

theorem boolCode_injective : Function.Injective boolCode := by
  decide

theorem channelsOf_le_two (m : ChannelMode) : channelsOf m ≤ 2 := by
  cases m <;> decide

/-- R82: the numbers of a valid descriptor are within their bounds, so their port fields hold them. -/
theorem toPort_numbers (d : Descriptor) (h : d.Valid) :
    d.toPort.bitrate.toNat = d.bitrate ∧ d.bitrate ≤ 448 ∧ d.toPort.sampleRate.toNat = d.sampleRate ∧
      d.sampleRate ≤ 48000 ∧ d.toPort.channels.toNat = d.channels := by
  obtain ⟨hb, hs, hc⟩ := h
  have bitrate := (bitrateColumn_pos _ _ _ hb).2
  have sampleRate := (sampleRateColumn_pos _ _ hs).2
  have channels := channelsOf_le_two d.channelMode
  rw [← hc] at channels
  exact ⟨Nat.mod_eq_of_lt (by omega), bitrate, Nat.mod_eq_of_lt (by omega), sampleRate,
    Nat.mod_eq_of_lt (by omega)⟩

/-- R82: no two valid descriptors share their port fields: each code is injective, and each number is read back. -/
theorem toPort_injective (d e : Descriptor) (hd : d.Valid) (he : e.Valid) (h : d.toPort = e.toPort) : d = e := by
  obtain ⟨db, -, ds, -, dc⟩ := toPort_numbers d hd
  obtain ⟨eb, -, es, -, ec⟩ := toPort_numbers e he
  have bitrate : d.bitrate = e.bitrate := by rw [← db, ← eb, h]
  have sampleRate : d.sampleRate = e.sampleRate := by rw [← ds, ← es, h]
  have channels : d.channels = e.channels := by rw [← dc, ← ec, h]
  cases d
  cases e
  simp only [Descriptor.toPort, PortDescriptor.mk.injEq, versionCode_injective.eq_iff, layerCode_injective.eq_iff,
    channelModeCode_injective.eq_iff, emphasisCode_injective.eq_iff, boolCode_injective.eq_iff] at h
  simp_all

/-- Settles O60: the numbers, the injectivity, and the tags and codes as the model tabulates them. -/
theorem portFieldsAreFaithful : Obligations.PortFieldsAreFaithful :=
  ⟨toPort_numbers, toPort_injective, fun _ _ _ => ⟨rfl, rfl, rfl, rfl⟩, rfl, rfl, rfl⟩

end Sys2Proof.Machine

namespace Sys2Proof

/-- R61: a one-bit field of a word is the bit at its place. -/
theorem extractLsb'_one_beq_one (w : Word) (i : Nat) : (w.extractLsb' i 1 == 1) = w.getLsbD i := by
  have bit : ∀ b : BitVec 1, (b == 1) = b.getLsbD 0 := by decide
  rw [bit, BitVec.getLsbD_extractLsb', decide_eq_true Nat.one_pos, Bool.true_and, Nat.add_zero]

end Sys2Proof

namespace Sys2Proof.Machine

/-! ### The fields of a decoded header (40_header_decoder.md R110, R112, R113) -/

/-- R30, R107: only mono has one channel. -/
theorem channelsOf_eq_ite (m : ChannelMode) : channelsOf m = if m = .mono then 1 else 2 := by
  cases m <;> rfl

/-- Settles O11: the raw fields are slices of the word, and `decodeHeader_ok_iff` says which lookups succeeded. -/
theorem descriptorFieldsFromBits : Obligations.DescriptorFieldsFromBits := by
  intro p w d h
  obtain ⟨-, v, l, hv, hl, hd⟩ := (decodeHeader_ok_iff p w d).1 h
  obtain ⟨kbps, hz, em, hb, hs, he, rfl⟩ := (decodeFields_ok_iff p v l _ d).1 hd
  have bit := extractLsb'_one_beq_one w
  exact ⟨hv, hl, rfl, hb, hs, bit 9, bit 8, rfl, channelsOf_eq_ite _, rfl, bit 3, bit 2, he⟩

/-- R75, R110: with legal codes the three lookups succeed, so the header has a descriptor. -/
theorem decodeFields_of_legal (p : Params) (v : Version) (l : Layer) (f : HdrFields) (br0 : f.brIndex ≠ 0)
    (br15 : f.brIndex ≠ 15) (sr : f.srIndex ≠ 3) (em : f.emphCode ≠ 2) : ∃ d, decodeFields p v l f = .ok d := by
  cases h : decodeFields p v l f with
  | ok d => exact ⟨d, rfl⟩
  | invalidHeader =>
    rcases (decodeFields_invalidHeader_iff p v l f).1 h with (h | h) | h | h
    · exact absurd h br0
    · exact absurd h br15
    · exact absurd h sr
    · exact absurd h em

theorem headerOutcome_ok (d : Descriptor) (s : State) :
    headerOutcome (.ok d) s = .next { s with response := .decoded (.ok d (frameSize s.params d)) } := rfl

/-- Settles O23: each row runs `decodeFields` with its own version and layer, legal codes give it a descriptor, and
`decodeFields_ok_iff` says its fields. -/
theorem validHeaderRowsComplete : Obligations.ValidHeaderRowsComplete := by
  intro f s v l i row br0 br15 sr em
  have run : exec i s = headerOutcome (decodeFields s.params v l f) s := by
    simp only [List.mem_cons, List.not_mem_nil, or_false, Prod.mk.injEq] at row
    rcases row with ⟨rfl, rfl, rfl⟩ | ⟨rfl, rfl, rfl⟩ | ⟨rfl, rfl, rfl⟩ | ⟨rfl, rfl, rfl⟩ | ⟨rfl, rfl, rfl⟩ |
      ⟨rfl, rfl, rfl⟩ <;> rfl
  obtain ⟨d, hd⟩ := decodeFields_of_legal s.params v l f br0 br15 sr em
  rw [hd, headerOutcome_ok] at run
  obtain ⟨kbps, hz, _, hb, hs, he, rfl⟩ := (decodeFields_ok_iff s.params v l f d).1 hd
  exact ⟨_, run, rfl, rfl, rfl, hb, hs, rfl, rfl, rfl, rfl, rfl, rfl, rfl, he⟩

/-- Settles O12: 0xFFFFFFFF has bitrate index 15, 0 lacks the sync pattern, and 0xFFE00000 has version code 0. -/
theorem decodeWorkedExamples : Obligations.DecodeWorkedExamples := by
  have invalid (w : Word) := (decodeHeader_invalidHeader_iff Params.default w).2
  refine ⟨by decide, invalid _ ?bitrate, invalid _ (.inl ?sync), invalid _ (.inr (.inl (.inl ?version)))⟩
  case bitrate => exact .inr (.inr (.inr (.inl (.inr (by decide)))))
  case sync => decide
  case version => decide

end Sys2Proof.Machine

namespace Sys2Proof.Machine

/-! ### The frame size (41_frame_extractor.md R137, R138) -/

/-- Settles O13: one case of the formula for each layer, and for Layer III one for each version and coefficient. -/
theorem frameSizeFormula : Obligations.FrameSizeFormula := by
  rintro p d _ rfl
  refine ⟨fun layer => ?I, fun layer => ?II, fun layer version => ?III1, fun layer version coeff => ?III72,
    fun layer version coeff => ?III144⟩
  case I => simp only [frameSize, layer]
  case II => simp only [frameSize, layer]
  case III1 => simp only [frameSize, layer, version]
  case III72 => simp only [frameSize, lsfCoeff, layer, version, coeff]
  case III144 => simp only [frameSize, lsfCoeff, layer, version, coeff]

/-- The default parameters but for the coefficient. -/
def paramsWithCoeff (c : LsfCoeff) : Params :=
  { Params.default with lsfL3Coeff := c }

/-- A descriptor with the given fields that the frame size reads, and the others at their least values. -/
def sizedDescriptor (v : Version) (l : Layer) (kbps hz : Nat) (padding : Bool) : Descriptor where
  version := v
  layer := l
  crcEnabled := false
  bitrate := kbps
  sampleRate := hz
  paddingEnabled := padding
  privateBit := false
  channelMode := .stereo
  channels := channelsOf .stereo
  modeExtension := 0
  copyright := false
  original := false
  emphasisMode := .none

/-- R137 reads the coefficient of the parameters and five fields of the descriptor. -/
theorem frameSize_eq_sizedDescriptor (p : Params) (d : Descriptor) :
    frameSize p d = frameSize (paramsWithCoeff p.lsfL3Coeff)
      (sizedDescriptor d.version d.layer d.bitrate d.sampleRate d.paddingEnabled) := rfl

/-- R138: the least and the greatest frame size of a version and a layer, under either coefficient. -/
def frameSizeBounds : LsfCoeff → Version → Layer → Nat × Nat
  | _, .mpeg1, .I => (32, 676)
  | _, .mpeg1, .II => (96, 1729)
  | _, .mpeg1, .III => (96, 1441)
  | _, .mpeg2, .I => (64, 772)
  | _, .mpeg2, .II => (48, 1441)
  | .c72, .mpeg2, .III => (24, 721)
  | .c144, .mpeg2, .III => (48, 1441)

/-- The tables are finite: no bitrate and sample rate in them leaves the bounds. -/
theorem sizedDescriptor_within (c : LsfCoeff) (v : Version) (l : Layer) :
    ∀ kbps ∈ bitrateColumn v l, ∀ hz ∈ sampleRateColumn v, ∀ padding,
      (frameSizeBounds c v l).1 ≤ frameSize (paramsWithCoeff c) (sizedDescriptor v l kbps hz padding) ∧
        frameSize (paramsWithCoeff c) (sizedDescriptor v l kbps hz padding) ≤ (frameSizeBounds c v l).2 := by
  cases c <;> cases v <;> cases l <;> decide

theorem sizedDescriptor_attains (c : LsfCoeff) (v : Version) (l : Layer) :
    (∃ kbps ∈ bitrateColumn v l, ∃ hz ∈ sampleRateColumn v,
        frameSize (paramsWithCoeff c) (sizedDescriptor v l kbps hz false) = (frameSizeBounds c v l).1) ∧
      ∃ kbps ∈ bitrateColumn v l, ∃ hz ∈ sampleRateColumn v,
        frameSize (paramsWithCoeff c) (sizedDescriptor v l kbps hz true) = (frameSizeBounds c v l).2 := by
  cases c <;> cases v <;> cases l <;> decide

theorem frameSize_within (p : Params) (d : Descriptor) (h : d.Valid) :
    (frameSizeBounds p.lsfL3Coeff d.version d.layer).1 ≤ frameSize p d ∧
      frameSize p d ≤ (frameSizeBounds p.lsfL3Coeff d.version d.layer).2 := by
  obtain ⟨hb, hs, -⟩ := h
  rw [frameSize_eq_sizedDescriptor]
  exact sizedDescriptor_within _ _ _ _ hb _ hs _

theorem frameSize_attained (p : Params) (v : Version) (l : Layer) (padding : Bool) (n : Nat)
    (h : ∃ kbps ∈ bitrateColumn v l, ∃ hz ∈ sampleRateColumn v,
      frameSize (paramsWithCoeff p.lsfL3Coeff) (sizedDescriptor v l kbps hz padding) = n) :
    ∃ d : Descriptor, d.Valid ∧ d.version = v ∧ d.layer = l ∧ frameSize p d = n := by
  obtain ⟨kbps, hb, hz, hs, hn⟩ := h
  exact ⟨sizedDescriptor v l kbps hz padding, ⟨hb, hs, rfl⟩, rfl, rfl, hn⟩

theorem frameSizeBounds_extremes (c : LsfCoeff) (v : Version) (l : Layer) :
    headerSize < (frameSizeBounds c v l).1 ∧ (frameSizeBounds c v l).2 ≤ 1729 ∧
      (c = .c144 → 32 ≤ (frameSizeBounds c v l).1) := by
  cases c <;> cases v <;> cases l <;> decide

/-- Settles O14: the bounds hold of every entry of the tables, and entries attain them. -/
theorem frameSizeRange : Obligations.FrameSizeRange := by
  refine ⟨fun p hp v l lo hi h => ?_, fun p d hd => ?_, fun p d hp hd => ?_⟩
  · have bounds : (lo, hi) = frameSizeBounds p.lsfL3Coeff v l := by
      rw [h, hp]
      cases v <;> cases l <;> rfl
    obtain ⟨rfl, rfl⟩ := Prod.mk.inj bounds
    obtain ⟨least, greatest⟩ := sizedDescriptor_attains p.lsfL3Coeff v l
    refine ⟨?_, frameSize_attained p v l _ _ least, frameSize_attained p v l _ _ greatest⟩
    rintro d hd rfl rfl
    exact frameSize_within p d hd
  · obtain ⟨least, greatest, -⟩ := frameSizeBounds_extremes p.lsfL3Coeff d.version d.layer
    exact ⟨least.trans_le (frameSize_within p d hd).1, (frameSize_within p d hd).2.trans greatest⟩
  · obtain ⟨-, -, least⟩ := frameSizeBounds_extremes p.lsfL3Coeff d.version d.layer
    exact (least hp).trans (frameSize_within p d hd).1

/-! ### The sync test, the loop states and the guard (41_frame_extractor.md R130, R140, R147) -/

theorem hasSyncAt_iff (b : Bytes) (i : Nat) :
    hasSyncAt b i = true ↔
      i + 1 < b.length ∧ byteAt b i = some 0xFF ∧ ∃ y, byteAt b (i + 1) = some y ∧ y &&& 0xE0 = 0xE0 := by
  unfold hasSyncAt byteAt
  by_cases h : i + 1 < b.length
  · simp [Nat.lt_of_succ_lt h, h, topThree]
  · simp [h]

theorem hasSyncAt_zero_iff (b0 b1 : Byte) (rest : Bytes) :
    hasSyncAt (b0 :: b1 :: rest) 0 = true ↔ b0 = 0xFF ∧ b1 &&& 0xE0 = 0xE0 := by
  simp [hasSyncAt, topThree]

/-- Settles O15: both tests ask for the same two bytes. -/
theorem hasSyncAtTest : Obligations.HasSyncAtTest := by
  refine ⟨hasSyncAt_iff, fun b0 b1 b2 b3 rest => Bool.eq_iff_iff.2 ?_⟩
  rw [hasSyncAt_zero_iff, syncMatch_be32_iff]

/-- Four bytes cannot be read from fewer. -/
theorem memRead_four_ne (b : Memory) (h : b.length < 4) (b0 b1 b2 b3 : Byte) : memRead b 0 4 ≠ [b0, b1, b2, b3] := by
  intro e
  have hle : (memRead b 0 4).length ≤ b.length := by simp [memRead]
  rw [e] at hle
  exact h.not_ge hle

/-- Settles O19: the four cases of `loopState_cases` exclude each other by length and sync. -/
theorem loopStateOfBuffer : Obligations.LoopStateOfBuffer := by
  intro b
  rcases loopState_cases b with ⟨rfl, hl⟩ | ⟨hpos, hlt, hl⟩ | ⟨hle, hs, hl⟩ | ⟨b0, b1, b2, b3, rest, rfl, hs, hl⟩
  · simp [hl, memRead]
  · simp [hl, hpos, hlt, hlt.not_ge, List.length_pos_iff.1 hpos, memRead_four_ne b hlt]
  · have hne : b ≠ [] := List.length_pos_iff.1 (Nat.lt_of_lt_of_le (by decide) hle)
    simp [hl, hs, hle, hle.not_gt, hne]
  · simp [hl, hs, memRead, eq_comm]

/-- Settles O20: the five cases of `guardCheck_cases`; two bytes or more are neither none nor one. -/
theorem guardResults : Obligations.GuardResults := by
  intro p rest
  have long (h : 2 ≤ rest.length) : rest ≠ [] ∧ rest.length ≠ 1 ∧ ∀ x, rest ≠ [x] := by
    refine ⟨?_, by omega, fun x => ?_⟩ <;> rintro rfl <;> simp at h
  rcases guardCheck_cases p rest with ⟨rfl, e⟩ | ⟨x, rfl, hm, rfl, e⟩ | ⟨x, rfl, hm, e⟩ | ⟨h, hs, e⟩ | ⟨h, hs, e⟩
  · simp [e]
  · rw [e]
    simp [hm]
  · rw [e]
    simpa using hm
  · obtain ⟨hnil, hone, hx⟩ := long h
    simp [e, h, hs, hnil, hone, hx]
  · obtain ⟨hnil, hone, hx⟩ := long h
    simp [e, h, hs, hnil, hone, hx]

/-! ### The loop ends (41_frame_extractor.md R153) -/

/-- R132, R140: fewer than four bytes end the loop, as they are. -/
theorem pass_of_short (w : Work) (h : w.st.buffer.length < 4) : pass w = .stop w := by
  rcases loopState_cases w.st.buffer with ⟨-, hl⟩ | ⟨-, -, hl⟩ | ⟨hle, -⟩ | ⟨b0, b1, b2, b3, rest, hb, -⟩
  · simp [pass, hl]
  · simp [pass, hl]
  · omega
  · rw [hb] at h
    simp only [List.length_cons] at h
    omega

/-- R153: as many passes as the buffer has bytes are enough, since the last three bytes take one pass at most. -/
theorem extract_ends_within (n : Nat) (w : Work) (h : w.st.buffer.length ≤ n + 1) :
    ∃ r, extract (n + 1) w = some r := by
  induction n generalizing w with
  | zero => exact ⟨w, by rw [extract_succ, pass_of_short w (by omega)]⟩
  | succ n ih =>
    rw [extract_succ]
    cases hp : pass w with
    | stop v => exact ⟨v, rfl⟩
    | again v => exact ih v (by have := pass_again_length_lt w v hp; omega)

/-- Settles O35: each pass that goes on shortens the buffer, so a nonempty one of `n` bytes takes at most `n` passes. -/
theorem loopEndsWithinBufferLength : Obligations.LoopEndsWithinBufferLength := by
  refine ⟨pass_again_length_lt, fun w h => ?_⟩
  obtain ⟨n, hn⟩ := Nat.exists_eq_succ_of_ne_zero (mt List.length_eq_zero_iff.1 h)
  rw [hn]
  exact extract_ends_within n w hn.le

/-! ### A DELIVER whose loop runs (43_host_commands.md R199 to R204) -/

/-- Two numbers of passes that end the loop end it alike. -/
theorem extract_unique (m n : Nat) (w r r' : Work) (h : extract m w = some r) (h' : extract n w = some r') :
    r = r' := by
  have := extract_more m n w r h
  rw [Nat.add_comm, extract_more n m w r' h'] at this
  exact (Option.some.inj this).symm

theorem extract_of_stop (w v : Work) (h : pass w = .stop v) : extract 1 w = some v := by
  rw [extract_succ, h]

/-- R202: however many passes are known to end the loop, its result is the one of DELIVER's own pass count. -/
theorem extract_length_succ (n : Nat) (w r : Work) (h : extract n w = some r) :
    extract (w.st.buffer.length + 1) w = some r := by
  obtain ⟨r', hr'⟩ := extract_ends (w.st.buffer.length + 1) w (Nat.lt_succ_self _)
  rw [hr', extract_unique _ _ w r r' h hr']

/-- R200: the working copy with the chunk appended and nothing dropped. -/
def appended (chunk : Bytes) (s : State) : Work where
  st := { s with buffer := s.buffer ++ chunk }
  ev := []

/-- R173, R177: the proactive align drops nothing when the bytes begin with a candidate, or there are none. -/
theorem deliverStart_eq_appended (chunk : Bytes) (s : State)
    (h : s.resyncEnabled = true → s.buffer ++ chunk = [] ∨ isCandidateAt (s.buffer ++ chunk) 0 = true) :
    deliverStart chunk s = appended chunk s := by
  have cut (hr : s.resyncEnabled = true) : align (s.buffer ++ chunk) 0 = ([], s.buffer ++ chunk) := by
    rcases h hr with hb | hc
    · rw [hb]
      rfl
    · exact align_zero_of_candidate _ hc
  have st : (deliverStart chunk s).st = (appended chunk s).st := by
    rw [deliverStart_frame]
    split
    · rw [cut ‹_›]
      rfl
    · rfl
  have ev : (deliverStart chunk s).ev = (appended chunk s).ev := by
    rw [deliverStart_ev, if_neg]
    · rfl
    · exact fun ⟨hr, hne⟩ => hne (by rw [cut hr])
  exact congrArg₂ Work.mk st ev

/-- R204: a DELIVER that fits, drops nothing at the start and ends its loop in READY. -/
theorem exec_deliver_appended (chunk : Bytes) (s : State) (n : Nat) (r : Work) (hf : s.fsm = .ready)
    (hcap : ∀ cap, s.params.bufCap = some cap → s.buffer.length + chunk.length ≤ cap)
    (hhead : s.resyncEnabled = true → s.buffer ++ chunk = [] ∨ isCandidateAt (s.buffer ++ chunk) 0 = true)
    (hr : extract n (appended chunk s) = some r) (hready : r.st.fsm = .ready) :
    exec (.deliver chunk) s = .next { r.st with response := .events r.ev } := by
  have run := extract_length_succ n _ r hr
  rw [← deliverStart_eq_appended chunk s hhead] at run
  rw [← handedOver_eq_ev r (.inr hready)]
  exact execDeliver_ready chunk s r hf ((fits_iff _ _).2 hcap) run

/-- Settles O39: nothing is dropped with resync off, and the first pass stops. -/
theorem deliverOfShortBufferWaits : Obligations.DeliverOfShortBufferWaits := by
  intro chunk s hf hoff hcap hlt
  exact exec_deliver_appended chunk s 1 (appended chunk s) hf hcap (by simp [hoff])
    (extract_of_stop _ _ (pass_of_short _ hlt)) hf

/-! ### A frame that is not complete (41_frame_extractor.md R145) -/

theorem headerOf_hasSyncAt (p : Params) (b : Bytes) (d : Descriptor) (h : headerOf p b = some d) :
    hasSyncAt b 0 = true := by
  obtain ⟨b0, b1, b2, b3, rest, -, hs, -⟩ := (headerOf_eq_some_iff p b d).1 h
  exact hs

/-- R143: a pass goes by the header at the front, if that decodes. -/
theorem pass_of_headerOf (w : Work) (d : Descriptor) (h : headerOf w.st.params w.st.buffer = some d) :
    pass w = framePass d w := by
  obtain ⟨b0, b1, b2, b3, rest, hb, hs, hd⟩ := (headerOf_eq_some_iff _ _ d).1 h
  have hl : loopState w.st.buffer = .haveHeader (be32 b0 b1 b2 b3) := by
    rw [hb] at hs ⊢
    simp [loopState, hs]
  simp [pass, hl, hd]

/-- Settles O38: the header's sync keeps the align from dropping, and the first pass writes the estimate and stops. -/
theorem deliverOfPartialFrame : Obligations.DeliverOfPartialFrame := by
  intro chunk s d hf hcap hd hlt
  have stop : pass (appended chunk s) = .stop (setEst (frameSize s.params d) (appended chunk s)) := by
    rw [pass_of_headerOf _ d hd]
    exact if_pos hlt
  exact exec_deliver_appended chunk s 1 _ hf hcap
    (fun _ => .inr (hasSyncAt_candidate _ _ (headerOf_hasSyncAt _ _ d hd))) (extract_of_stop _ _ stop) hf

/-! ### Whole frames (41_frame_extractor.md R150 to R152) -/

/-- R147, R150: a frame with nothing or a sync behind it is emitted. -/
theorem pass_of_frame (w : Work) (x rest : Bytes) (d : Descriptor) (hx : IsFrame w.st.params x d)
    (hb : w.st.buffer = x ++ rest) (hrest : rest = [] ∨ hasSyncAt rest 0 = true) :
    pass w = .again (emitFrame d (frameSize w.st.params d) w) := by
  obtain ⟨hd, hlen⟩ := hx
  obtain ⟨pass_iff, -, -⟩ := guardResults w.st.params rest
  have guard := pass_iff.2 (hrest.imp_right fun hs => ⟨((hasSyncAt_iff rest 0).1 hs).1, hs⟩)
  rw [pass_of_headerOf w d (by rw [hb]; exact headerOf_append _ x rest d hd)]
  simp [framePass, hb, ← hlen, guard]

/-- The working copy after the frames at the head of the buffer are emitted, with `rest` behind them. -/
def afterFrames (fs : List (Bytes × Descriptor)) (rest : Bytes) (w : Work) : Work where
  st := { w.st with
    buffer := rest
    lastDescriptor := (match fs.getLast? with
      | none => w.st.lastDescriptor
      | some x => some x.2)
    estFrameSize := (match fs.getLast? with
      | none => w.st.estFrameSize
      | some x => frameSize w.st.params x.2) }
  ev := w.ev ++ frameEvents w.st.lastDescriptor fs

theorem afterFrames_nil (w : Work) : afterFrames [] w.st.buffer w = w := by
  simp [afterFrames, frameEvents]

/-- R151: the first frame emitted by itself, then the others. -/
theorem afterFrames_cons (x rest : Bytes) (d : Descriptor) (fs : List (Bytes × Descriptor)) (w : Work)
    (hx : memRead w.st.buffer 0 (frameSize w.st.params d) = x) :
    afterFrames ((x, d) :: fs) rest w = afterFrames fs rest (emitFrame d (frameSize w.st.params d) w) := by
  rw [emitFrame_eq]
  cases hl : fs.getLast? <;> simp [afterFrames, frameEvents, List.getLast?_cons, hl, hx]

/-- R147: whole frames, and a sync or nothing behind them, are a sync or nothing. -/
theorem frames_head (p : Params) (fs : List (Bytes × Descriptor)) (rest : Bytes)
    (hfs : ∀ x ∈ fs, IsFrame p x.1 x.2) (hrest : rest = [] ∨ hasSyncAt rest 0 = true) :
    fs.flatMap Prod.fst ++ rest = [] ∨ hasSyncAt (fs.flatMap Prod.fst ++ rest) 0 = true := by
  cases fs with
  | nil => exact hrest
  | cons f fs =>
    obtain ⟨⟨hd, -⟩, -⟩ := List.forall_mem_cons.1 hfs
    rw [List.flatMap_cons, List.append_assoc]
    exact .inr (headerOf_hasSyncAt p _ _ (headerOf_append p _ _ _ hd))

/-- R152: the loop takes the frames at the head of the buffer one by one. -/
theorem extract_frames (n : Nat) (fs : List (Bytes × Descriptor)) (rest : Bytes) (w : Work)
    (hfs : ∀ x ∈ fs, IsFrame w.st.params x.1 x.2) (hb : w.st.buffer = fs.flatMap Prod.fst ++ rest)
    (hrest : rest = [] ∨ hasSyncAt rest 0 = true) :
    extract (n + fs.length) w = extract n (afterFrames fs rest w) := by
  induction fs generalizing w with
  | nil =>
    obtain rfl : w.st.buffer = rest := hb
    rw [afterFrames_nil]
    rfl
  | cons f fs ih =>
    obtain ⟨x, d⟩ := f
    obtain ⟨hx, hfs⟩ := List.forall_mem_cons.1 hfs
    rw [List.flatMap_cons, List.append_assoc] at hb
    have head := frames_head _ fs rest hfs hrest
    have first : memRead w.st.buffer 0 (frameSize w.st.params d) = x := by simp [memRead, hb, ← hx.2]
    have behind : w.st.buffer.drop (frameSize w.st.params d) = fs.flatMap Prod.fst ++ rest := by simp [hb, ← hx.2]
    rw [List.length_cons, ← Nat.add_assoc, extract_succ, pass_of_frame w x _ d hx hb head,
      afterFrames_cons x rest d fs w first]
    exact ih _ (by rwa [emitFrame_eq]) (by rwa [emitFrame_eq])

/-- Settles O37: nothing stands before the first frame, the loop takes all frames, and one pass more finds the buffer
empty. -/
theorem deliverOfWholeFrames : Obligations.DeliverOfWholeFrames := by
  intro chunk s fs hf hcap hfs hb
  have hb' : s.buffer ++ chunk = fs.flatMap Prod.fst ++ [] := by rw [hb, List.append_nil]
  have head := frames_head s.params fs [] hfs (.inl rfl)
  rw [← hb'] at head
  refine exec_deliver_appended chunk s (1 + fs.length) (afterFrames fs [] (appended chunk s)) hf hcap
    (fun _ => head.imp_right (hasSyncAt_candidate _ 0)) ?_ hf
  rw [extract_frames 1 fs [] _ hfs hb' (.inl rfl)]
  exact extract_of_stop _ _ (pass_of_empty _ rfl)

end Sys2Proof.Machine

namespace Sys2Proof.Machine

/-! ### Candidates and aligns (42_resync.md R171, R172, R177) -/

/-- R171: a byte with none after it is a candidate if it is 0xFF. -/
theorem isCandidateAt_last_iff (b : Bytes) (i : Nat) (h : i + 1 = b.length) :
    isCandidateAt b i = true ↔ byteAt b i = some 0xFF := by
  have hi : i < b.length := h ▸ Nat.lt_succ_self i
  simp [isCandidateAt, byteAt, hi, h]

theorem lt_length_of_byteAt (b : Bytes) (i : Nat) (x : Byte) (h : byteAt b i = some x) : i < b.length :=
  (List.getElem?_eq_some_iff.1 h).1

/-- Settles O16: with the next byte present the test is the sync test, the last byte is tested alone, and past the end
there is no byte. -/
theorem candidatePosition : Obligations.CandidatePosition := by
  intro b i
  rcases lt_trichotomy (i + 1) b.length with h | h | h
  · rw [isCandidateAt_eq_hasSyncAt b i h, hasSyncAt_iff]
    simp [h, h.ne, Nat.lt_of_succ_lt h]
  · rw [isCandidateAt_last_iff b i h]
    simp [h, Nat.lt_of_succ_le h.le]
  · have past : ¬i < b.length := by omega
    exact iff_of_false (fun hc => past (lt_length_of_byteAt b i _ (byteAt_of_isCandidateAt b i hc))) fun hc => past hc.1

/-- R172: the dropped bytes are those before `start`, as far as there are any, and those the scan passes over. -/
theorem align_fst_length (b : Bytes) (start : Nat) :
    (align b start).1.length = min start b.length + scan (b.drop start) := by
  have hle : scan (b.drop start) ≤ b.length - start := List.length_drop ▸ scan_le_length (b.drop start)
  rw [align, List.length_take, alignAt]
  omega

/-- R172: the kept bytes are the buffer after the dropped ones. -/
theorem align_snd_eq_drop (b : Bytes) (start : Nat) : (align b start).2 = b.drop (align b start).1.length :=
  List.drop_left.symm.trans (congrArg (List.drop _) (align_append b start))

/-- R172: the first kept byte is a candidate of the whole buffer. -/
theorem align_cut_candidate (b : Bytes) (start : Nat) (h : (align b start).2 ≠ []) :
    isCandidateAt b (align b start).1.length = true := by
  have head := (align_kept_head b start).resolve_left h
  rwa [align_snd_eq_drop, isCandidateAt_drop] at head

/-- R172: from `start` on no dropped byte is a candidate, by the scan's leastness. -/
theorem align_dropped_not_candidate (b : Bytes) (start i : Nat) (hs : start ≤ i) (hi : i < (align b start).1.length) :
    isCandidateAt b i = false := by
  rw [align_fst_length] at hi
  rw [← Nat.add_sub_cancel' hs, ← isCandidateAt_drop]
  exact scan_least _ _ (by omega)

/-- Settles O17: the cut of an align, part by part. -/
theorem alignCutsAtLeastCandidate : Obligations.AlignCutsAtLeastCandidate := by
  rintro b start - dropped kept h
  obtain rfl : (align b start).1 = dropped := congrArg Prod.fst h
  obtain rfl : (align b start).2 = kept := congrArg Prod.snd h
  refine ⟨align_append b start, fun hle => ?_, align_cut_candidate b start, align_dropped_not_candidate b start⟩
  rw [align_fst_length, Nat.min_eq_left hle]
  exact Nat.le_add_right _ _

/-- Settles O18: the kept bytes are empty or begin with a candidate, which is a sync if a byte follows it and an 0xFF in
any case. -/
theorem keptBufferIsNeverMisaligned : Obligations.KeptBufferIsNeverMisaligned := by
  intro b start dropped kept h
  have head : kept = [] ∨ isCandidateAt kept 0 = true := by simpa only [h] using align_kept_head b start
  have candidate (hpos : 0 < kept.length) : isCandidateAt kept 0 = true :=
    head.resolve_left (List.length_pos_iff.1 hpos)
  refine ⟨head, fun hlen => ?_, fun hlen => ?_⟩
  · rw [← isCandidateAt_eq_hasSyncAt kept 0 hlen]
    exact candidate (by omega)
  · obtain ⟨y, rfl⟩ := List.length_eq_one_iff.1 hlen
    exact congrArg (fun y => [y]) (Option.some.inj (byteAt_of_isCandidateAt [y] 0 (candidate (by omega))))

/-! ### The failure resync (42_resync.md R174) -/

/-- R174: the failure resync drops at least the first byte. -/
theorem align_one_dropped_ne_nil (b : Bytes) (h : b ≠ []) : (align b 1).1 ≠ [] := by
  have := List.length_pos_iff.2 h
  rw [← List.length_pos_iff, align_fst_length]
  omega

/-- Settles O21: `resync` writes the buffer and adds one event. -/
theorem failureResync : Obligations.FailureResync := by
  intro kind w hr hlen
  have hb : w.st.buffer ≠ [] := List.length_pos_iff.1 (Nat.lt_of_lt_of_le (by decide) hlen)
  refine ⟨_, _, rfl, align_one_dropped_ne_nil _ hb, ?_⟩
  rw [onFailure, if_pos hr]
  rfl

/-! ### No dropped span without resync (42_resync.md R179) -/

/-- Resync is off and no event so far is a dropped span. -/
structure NoDrops (w : Work) : Prop where
  off : w.st.resyncEnabled = false
  events : ∀ e ∈ w.ev, e.isDrop = false

/-- With resync off a DELIVER drops nothing before its loop. -/
theorem deliverStart_noDrops (chunk : Bytes) (s : State) (h : s.resyncEnabled = false) :
    NoDrops (deliverStart chunk s) where
  off := (deliverStart_sameSetup chunk s).resyncEnabled.trans h
  events := by simp [deliverStart_ev, h]

/-- R150, R151: a frame adds no dropped span. -/
theorem NoDrops.emitFrame {w : Work} (h : NoDrops w) (d : Descriptor) (fs : Nat) : NoDrops (emitFrame d fs w) := by
  have change : ∀ e ∈ (if w.st.lastDescriptor = some d then [] else [Event.descriptorChanged d]), e.isDrop = false := by
    split <;> simp [Event.isDrop]
  rw [emitFrame_eq]
  exact ⟨h.off, List.forall_mem_append.2
    ⟨List.forall_mem_append.2 ⟨h.events, change⟩, List.forall_mem_singleton.2 rfl⟩⟩

/-- R149: with resync off a pass goes on only by a frame. -/
theorem NoDrops.again {w v : Work} (h : NoDrops w) (e : pass w = .again v) : NoDrops v := by
  rcases pass_again w v e with ⟨hr, -⟩ | ⟨d, -, -, -, rfl⟩
  · exact absurd hr (by simp [h.off])
  · exact h.emitFrame d _

/-- R224: the one event a pass that stops can add is a Fatal. -/
theorem NoDrops.stop {w v : Work} (h : NoDrops w) (e : pass w = .stop v) : NoDrops v := by
  rcases pass_stop w v e with ⟨-, rfl⟩ | ⟨kind, rfl⟩ | ⟨d, -, rfl, -⟩
  · exact h
  · exact ⟨h.off, List.forall_mem_append.2 ⟨h.events, List.forall_mem_singleton.2 rfl⟩⟩
  · exact ⟨h.off, h.events⟩

/-- R225: only produced events are handed over. -/
theorem handedOver_subset (w : Work) : handedOver w ⊆ w.ev := by
  unfold handedOver
  split
  · exact List.drop_subset _ _
  · exact List.Subset.refl _

/-- Settles O45: `NoDrops` holds where the loop starts and is kept by every pass. -/
theorem noDropsWithoutResync : Obligations.NoDropsWithoutResync := by
  rintro chunk s t ev - hoff h hev e he
  obtain ⟨w, hw, -, rfl⟩ := exec_deliver_events chunk s t ev h hev
  have final : NoDrops w := extract_induction (fun _ _ => NoDrops.again) (fun _ _ => NoDrops.stop) _ _ w
    (deliverStart_noDrops chunk s hoff) hw
  exact final.events e (handedOver_subset w he)

/-! ### Garbage ahead of a frame (42_resync.md R173, R180) -/

/-- R171: the scan passes over bytes that are not 0xFF. -/
theorem scan_append_of_not_mem (g x : Bytes) (h : (0xFF : Byte) ∉ g) : scan (g ++ x) = scan x + g.length := by
  induction g with
  | nil => rfl
  | cons y g ih =>
    obtain ⟨hy, hg⟩ := not_or.1 (mt List.mem_cons.2 h)
    have skip : ¬isCandidateAt (y :: (g ++ x)) 0 = true := fun hc =>
      hy (Option.some.inj (byteAt_of_isCandidateAt _ 0 hc)).symm
    rw [List.cons_append, scan, if_neg skip, ih hg, List.length_cons, Nat.add_assoc]

/-- R172: an align cuts between bytes that are not 0xFF and a candidate behind them. -/
theorem align_zero_of_garbage (g x : Bytes) (hg : (0xFF : Byte) ∉ g) (hx : isCandidateAt x 0 = true) :
    align (g ++ x) 0 = (g, x) := by
  simp [align, alignAt, scan_append_of_not_mem g x hg, scan_of_candidate x hx]

/-- R173: the working copy after the proactive align has dropped something. -/
theorem deliverStart_of_dropped (chunk : Bytes) (s : State) (dropped kept : Bytes) (hr : s.resyncEnabled = true)
    (hcut : align (s.buffer ++ chunk) 0 = (dropped, kept)) (hne : dropped ≠ []) :
    deliverStart chunk s = { st := { s with buffer := kept }, ev := [.bytesDropped dropped] } := by
  have st : (deliverStart chunk s).st = { s with buffer := kept } := by rw [deliverStart_frame, if_pos hr, hcut]
  have ev : (deliverStart chunk s).ev = [.bytesDropped dropped] := by
    rw [deliverStart_ev, hcut]
    exact if_pos ⟨hr, hne⟩
  exact congrArg₂ Work.mk st ev

/-- R204: a DELIVER that fits and ends its loop in READY, whatever the proactive align has dropped. -/
theorem exec_deliver_of_extract (chunk : Bytes) (s : State) (n : Nat) (r : Work) (hf : s.fsm = .ready)
    (hcap : ∀ cap, s.params.bufCap = some cap → s.buffer.length + chunk.length ≤ cap)
    (hr : extract n (deliverStart chunk s) = some r) (hready : r.st.fsm = .ready) :
    exec (.deliver chunk) s = .next { r.st with response := .events r.ev } := by
  rw [← handedOver_eq_ev r (.inr hready)]
  exact execDeliver_ready chunk s r hf ((fits_iff _ _).2 hcap) (extract_length_succ n _ r hr)

/-- R152: a buffer of whole frames is emptied. -/
theorem extract_whole_frames (fs : List (Bytes × Descriptor)) (w : Work)
    (hfs : ∀ x ∈ fs, IsFrame w.st.params x.1 x.2) (hb : w.st.buffer = fs.flatMap Prod.fst) :
    extract (1 + fs.length) w = some (afterFrames fs [] w) := by
  rw [extract_frames 1 fs [] w hfs (by rw [hb, List.append_nil]) (.inl rfl)]
  exact extract_of_stop _ _ (pass_of_empty _ rfl)

/-- Settles O49: the proactive align cuts between the garbage and the frame's sync, and the loop takes the frame. -/
theorem garbageThenFrame : Obligations.GarbageThenFrame := by
  intro chunk s g x d hf hr hcap hne hg hx hb
  have cut : align (s.buffer ++ chunk) 0 = (g, x) := by
    rw [hb]
    exact align_zero_of_garbage g x hg (hasSyncAt_candidate x 0 (headerOf_hasSyncAt _ x d hx.1))
  have start := deliverStart_of_dropped chunk s g x hr cut hne
  have run := extract_whole_frames [(x, d)] (deliverStart chunk s) (by simpa [start] using hx) (by simp [start])
  rw [exec_deliver_of_extract chunk s _ _ hf hcap run (by simp [start, afterFrames, hf])]
  simp [start, afterFrames]

end Sys2Proof.Machine

namespace Sys2Proof.Machine

/-! ### CREATE, DEMAND, DECODE and the refusals outside READY (43_host_commands.md R190, R191, R197, R211) -/

/-- Settles O26: CREATE leaves `created r s`, whose estimate is the header size. -/
theorem createResetsEveryField : Obligations.CreateResetsEveryField := fun _ _ => rfl

/-- R197: the clamped formula over the integers. -/
theorem demandCount_eq_max (n : Nat) (s : State) :
    (demandCount n s : Int) = max 0 ((s.estFrameSize : Int) * n - s.buffer.length + headerSize) :=
  (Int.ofNat_toNat _).trans (max_comm _ _)

/-- Settles O27: in READY the answer is `demandCount`. -/
theorem demandFormula : Obligations.DemandFormula := fun n s hf =>
  ⟨demandCount n s, whenReady_ready s _ hf, demandCount_eq_max n s⟩

/-- Settles O28: DECODE answers the decoder's result, with the frame size added to a descriptor. -/
theorem decodeProbeResult : Obligations.DecodeProbeResult := by
  refine fun w s => ⟨fun h => ?_, fun d h => ?_⟩
  · change execDecode w s = _
    rw [execDecode, h]
    rfl
  · change execDecode w s = _
    rw [execDecode, h]
    rfl

/-- Settles O29: DEMAND and DELIVER both run under `whenReady`. -/
theorem commandsRefusedOutsideReady : Obligations.CommandsRefusedOutsideReady := by
  rintro s why (⟨hf, rfl⟩ | ⟨hf, rfl⟩) i (⟨n, rfl⟩ | ⟨c, rfl⟩)
  · exact whenReady_uninit s _ hf
  · exact whenReady_uninit s _ hf
  · exact whenReady_faulted s _ hf
  · exact whenReady_faulted s _ hf

/-! ### No Fatal before the loop ends (60_exceptions.md R224) -/

/-- No event so far is a Fatal. -/
def NoFatal (w : Work) : Prop :=
  ∀ e ∈ w.ev, e.isFatal = false

/-- R173: the one event before the loop is a dropped span. -/
theorem deliverStart_noFatal (chunk : Bytes) (s : State) : NoFatal (deliverStart chunk s) := by
  rw [NoFatal, deliverStart_ev]
  split
  · exact List.forall_mem_singleton.2 rfl
  · exact List.forall_mem_nil _

/-- R149, R151: a pass that goes on adds a dropped span, or a frame with or without a descriptor change. -/
theorem NoFatal.again {w v : Work} (h : NoFatal w) (e : pass w = .again v) : NoFatal v := by
  rcases pass_again w v e with ⟨-, rfl⟩ | ⟨d, -, -, -, rfl⟩
  · exact List.forall_mem_append.2 ⟨h, List.forall_mem_singleton.2 rfl⟩
  · have change : ∀ e ∈ (if w.st.lastDescriptor = some d then [] else [Event.descriptorChanged d]),
        e.isFatal = false := by
      split
      · exact List.forall_mem_nil _
      · exact List.forall_mem_singleton.2 rfl
    rw [NoFatal, emitFrame_eq]
    exact List.forall_mem_append.2 ⟨List.forall_mem_append.2 ⟨h, change⟩, List.forall_mem_singleton.2 rfl⟩

/-! ### A DELIVER with resync enabled (41_frame_extractor.md R142, 60_exceptions.md R226) -/

/-- R132, R177: a candidate with three bytes or more behind it is a sync, so a buffer that begins with one is not
misaligned. -/
theorem hasSyncAt_of_head (b : Bytes) (h : b = [] ∨ isCandidateAt b 0 = true) (hlen : 4 ≤ b.length) :
    hasSyncAt b 0 = true := by
  rcases h with rfl | hc
  · simp at hlen
  · rwa [← isCandidateAt_eq_hasSyncAt b 0 (by omega)]

/-- What holds of the working copy at the head of every pass with resync enabled: it is READY, has raised no Fatal, and
its buffer is empty or begins with a candidate. -/
structure Recovering (w : Work) : Prop where
  on : w.st.resyncEnabled = true
  ready : w.st.fsm = .ready
  head : w.st.buffer = [] ∨ isCandidateAt w.st.buffer 0 = true
  noFatal : NoFatal w

/-- R173: the proactive align leaves a candidate at the head. -/
theorem deliverStart_recovering (chunk : Bytes) (s : State) (hf : s.fsm = .ready) (hon : s.resyncEnabled = true) :
    Recovering (deliverStart chunk s) where
  on := (deliverStart_sameSetup chunk s).resyncEnabled.trans hon
  ready := (deliverStart_fsm chunk s).trans hf
  head := by
    rw [deliverStart_frame, if_pos hon]
    exact align_kept_head _ _
  noFatal := deliverStart_noFatal chunk s

/-- R149, R150: a resync leaves a candidate at the head, and the guard has seen a sync or nothing behind a frame. -/
theorem Recovering.again {w v : Work} (h : Recovering w) (e : pass w = .again v) : Recovering v := by
  rcases pass_again w v e with ⟨-, rfl⟩ | ⟨d, -, -, hg, rfl⟩
  · exact ⟨h.on, h.ready, align_kept_head _ _, h.noFatal.again e⟩
  · have noFatal := h.noFatal.again e
    rw [emitFrame_eq] at noFatal ⊢
    exact ⟨h.on, h.ready, (guardCheck_eq_pass _ _ hg).imp_right (hasSyncAt_candidate _ 0), noFatal⟩

/-- R142, R149: with resync enabled the loop ends only to wait for more bytes. -/
theorem Recovering.stop {w v : Work} (h : Recovering w) (e : pass w = .stop v) : Recovering v := by
  have resyncs (kind : ErrorKind) : onFailure kind w ≠ .stop v := by simp [onFailure, h.on]
  rcases pass_cases w with ⟨-, e'⟩ | ⟨-, -, e'⟩ | ⟨hlen, hs, -⟩ | ⟨-, -, -, e'⟩ |
    ⟨d, -, ⟨-, e'⟩ | ⟨-, -, e'⟩ | ⟨-, -, e'⟩ | ⟨-, -, e'⟩⟩
  · cases e'.symm.trans e
    exact h
  · cases e'.symm.trans e
    exact h
  · simp [hasSyncAt_of_head _ h.head hlen] at hs
  · exact absurd (e'.symm.trans e) (resyncs _)
  · cases e'.symm.trans e
    exact ⟨h.on, h.ready, h.head, h.noFatal⟩
  · cases e'.symm.trans e
    exact ⟨h.on, h.ready, h.head, h.noFatal⟩
  · exact absurd (e'.symm.trans e) (resyncs _)
  · cases e'.symm.trans e

/-- Settles O36: the loop ends, `Recovering` holds where it starts and ends, and a DELIVER that ends in READY hands over
every event and accounts for every byte. -/
theorem deliverWithResyncCompletes : Obligations.DeliverWithResyncCompletes := by
  intro chunk s hf hon hcap
  obtain ⟨r, hr⟩ := extract_ends _ (deliverStart chunk s) (Nat.lt_succ_self _)
  have final : Recovering r := extract_induction (fun _ _ => Recovering.again) (fun _ _ => Recovering.stop) _ _ r
    (deliverStart_recovering chunk s hf hon) hr
  have run := exec_deliver_of_extract chunk s _ r hf hcap hr final.ready
  exact ⟨_, r.ev, run, final.ready, rfl, final.noFatal,
    deliverAccountsForEveryByte chunk s _ _ hf run rfl (.inr final.ready)⟩

/-! ### What a DELIVER leaves unchanged (43_host_commands.md R199) -/

/-- R26: the estimate of `r` is the one of `w`, or the size of a valid descriptor's frame. -/
def EstimateKept (w r : Work) : Prop :=
  r.st.estFrameSize = w.st.estFrameSize ∨ ∃ d : Descriptor, d.Valid ∧ r.st.estFrameSize = frameSize r.st.params d

/-- R26: the loop leaves the estimate or writes the size of a valid descriptor's frame. -/
theorem extract_estFrameSize (n : Nat) (w r : Work) (h : extract n w = some r) : EstimateKept w r := by
  refine extract_induction (P := EstimateKept w) (Q := EstimateKept w) ?again ?stop n w r (.inl rfl) h
  case again =>
    intro v v' hv e
    rcases pass_again v v' e with ⟨-, rfl⟩ | ⟨d, hd, -, -, rfl⟩
    · exact hv
    · rw [EstimateKept, emitFrame_eq]
      exact .inr ⟨d, headerOf_valid _ _ d hd, rfl⟩
  case stop =>
    intro v v' hv e
    rcases pass_stop v v' e with ⟨-, rfl⟩ | ⟨kind, rfl⟩ | ⟨d, hd, rfl, -⟩
    · exact hv
    · exact hv
    · exact .inr ⟨d, headerOf_valid _ _ d hd, rfl⟩

theorem deliverStart_estFrameSize (chunk : Bytes) (s : State) :
    (deliverStart chunk s).st.estFrameSize = s.estFrameSize := by
  rw [deliverStart_frame]

/-- Settles O44: no pass writes the setup, `EstimateKept` holds along the loop, and the descriptor is written only with
a frame emitted (`Progress`), which the events handed over would show. -/
theorem deliverFrame : Obligations.DeliverFrame := by
  rintro chunk s t ev - h hev
  obtain ⟨w, hw, rfl, rfl⟩ := exec_deliver_events chunk s t ev h hev
  have same := (deliverStart_sameSetup chunk s).trans (extract_sameSetup _ _ w hw)
  refine ⟨same.params, same.resyncEnabled, same.hostQueue, same.refusals, ?estimate, fun hall noFrame => ?descriptor⟩
  case estimate =>
    have kept := extract_estFrameSize _ _ w hw
    rwa [EstimateKept, deliverStart_estFrameSize, same.params] at kept
  case descriptor =>
    rw [handedOver_eq_ev w (same.params ▸ hall)] at noFrame
    rcases (extract_progress _ _ w hw).descriptor with e | ⟨-, x, hx⟩
    · exact e.trans (deliverStart_lastDescriptor chunk s)
    · exact absurd hx (noFrame x)

/-! ### An empty DELIVER (43_host_commands.md R205) -/

theorem appended_nil (s : State) : appended [] s = begin s := by
  simp [appended, begin]

theorem setEst_self (w : Work) (n : Nat) (h : w.st.estFrameSize = n) : setEst n w = w := by
  subst h
  rfl

/-- R145, R148: a frame that is not complete, or whose guard waits, ends the pass with its size in the estimate. -/
theorem pass_of_waiting (w : Work) (d : Descriptor) (hd : headerOf w.st.params w.st.buffer = some d)
    (h : w.st.buffer.length < frameSize w.st.params d ∨
      guardCheck w.st.params (w.st.buffer.drop (frameSize w.st.params d)) = .wait) :
    pass w = .stop (setEst (frameSize w.st.params d) w) := by
  rw [pass_of_headerOf w d hd]
  by_cases hlt : w.st.buffer.length < frameSize w.st.params d
  · simp [framePass, hlt]
  · simp [framePass, hlt, h.resolve_left hlt]

/-- R147: under WAIT_SHORT a single 0xFF waits. -/
theorem guardCheck_ff (p : Params) (hm : p.guardMode = .waitShort) : guardCheck p [0xFF] = .wait :=
  if_pos ⟨hm, rfl⟩

theorem guardCheck_of_waiting (p : Params) (b : Bytes) (n : Nat) (hm : p.guardMode = .waitShort)
    (hlen : b.length = n + 1) (hbyte : byteAt b n = some 0xFF) : guardCheck p (b.drop n) = .wait := by
  obtain ⟨y, hy⟩ : ∃ y, b.drop n = [y] := List.length_eq_one_iff.1 (by simp [hlen])
  rw [← Nat.add_zero n, ← byteAt_drop, hy] at hbyte
  obtain rfl : y = 0xFF := Option.some.inj hbyte
  rw [hy, guardCheck_ff p hm]

/-- R35, R141, R145, R148: in every case of R35 the buffer waits for more bytes, and if it waits for a frame, the
estimate is that frame's size already. -/
theorem pass_of_readyBuffer (s : State) (h : ReadyBuffer s) : pass (begin s) = .stop (begin s) := by
  rcases h with he | ⟨⟨-, hlt⟩, -⟩ | ⟨d, hd, -, hlt, hest⟩ | ⟨hm, d, hd, -, hlen, hbyte, hest⟩
  · exact pass_of_empty _ he
  · exact pass_of_short _ hlt
  · rw [pass_of_waiting (begin s) d hd (.inl hlt), setEst_self _ _ hest]
  · rw [pass_of_waiting (begin s) d hd (.inr (guardCheck_of_waiting _ _ _ hm hlen hbyte)), setEst_self _ _ hest]

/-- R35, R177: a buffer that R35 admits under resync gives the proactive align nothing to drop. -/
theorem ReadyBuffer.head {s : State} (h : ReadyBuffer s) (hr : s.resyncEnabled = true) :
    s.buffer = [] ∨ isCandidateAt s.buffer 0 = true := by
  rcases h with he | ⟨-, hc⟩ | ⟨d, hd, -⟩ | ⟨-, d, hd, -⟩
  · exact .inl he
  · exact .inr (hc hr)
  · exact .inr (hasSyncAt_candidate _ 0 (headerOf_hasSyncAt _ _ d hd))
  · exact .inr (hasSyncAt_candidate _ 0 (headerOf_hasSyncAt _ _ d hd))

/-- Settles O48: nothing is appended, nothing stands before the head, and the first pass stops without a change. -/
theorem emptyDeliverChangesNothing : Obligations.EmptyDeliverChangesNothing := by
  intro s hinv hf
  have buf := hinv.ready hf
  refine exec_deliver_appended [] s 1 (begin s) hf ((fits_iff _ _).1 hinv.capacity) ?head ?loop hf
  case head =>
    rw [List.append_nil]
    exact buf.head
  case loop =>
    rw [appended_nil]
    exact extract_of_stop _ _ (pass_of_readyBuffer s buf)

/-! ### The event list against the last descriptor (43_host_commands.md R206) -/

/-- R206: an event list without a Fatal reads on into what follows it. -/
theorem tracks_append (p : Params) (last mid : Option Descriptor) (ev more : List Event)
    (h : tracks p last ev = some mid) (noFatal : ∀ e ∈ ev, e.isFatal = false) :
    tracks p last (ev ++ more) = tracks p mid more := by
  induction last, ev using tracks.induct (p := p) with
  | case1 last =>
    obtain rfl : last = mid := Option.some.inj h
    rfl
  | case2 last d x rest hd ih =>
    rw [tracks, if_pos hd] at h
    rw [List.cons_append, List.cons_append, tracks, if_pos hd]
    exact ih h fun e he => noFatal e (List.mem_cons_of_mem _ (List.mem_cons_of_mem _ he))
  | case6 x rest d hd ih =>
    rw [tracks, if_pos hd] at h
    rw [List.cons_append, tracks, if_pos hd]
    exact ih h fun e he => noFatal e (List.mem_cons_of_mem _ he)
  | case9 last x rest hx ih =>
    rw [tracks, if_neg hx] at h
    rw [List.cons_append, tracks, if_neg hx]
    exact ih h fun e he => noFatal e (List.mem_cons_of_mem _ he)
  | case10 last kind bytes => cases noFatal _ (List.mem_singleton_self _)
  -- The other lists break a rule, so that they read to nothing.
  | case3 | case4 | case5 | case7 | case8 | case11 => simp_all [tracks]

/-- The header at the front is in the first four bytes. -/
theorem headerOf_take (p : Params) (b : Bytes) (d : Descriptor) (n : Nat) (h : headerOf p b = some d) (hn : 4 ≤ n) :
    headerOf p (b.take n) = some d := by
  obtain ⟨b0, b1, b2, b3, rest, rfl, hs, hd⟩ := (headerOf_eq_some_iff p b d).1 h
  obtain ⟨k, rfl⟩ := Nat.exists_eq_add_of_le' hn
  exact (headerOf_eq_some_iff p _ d).2 ⟨b0, b1, b2, b3, rest.take k, rfl, by simpa [hasSyncAt] using hs, hd⟩

/-- R146: the bytes sliced off for a complete frame are that frame. -/
theorem memRead_isFrame (p : Params) (b : Bytes) (d : Descriptor) (hd : headerOf p b = some d)
    (hle : frameSize p d ≤ b.length) : IsFrame p (memRead b 0 (frameSize p d)) d := by
  have size := frameSize_ge p d (headerOf_valid p b d hd)
  exact ⟨headerOf_take p b d _ hd (by omega), memRead_length b 0 _ (by omega)⟩

/-- R151, R155: a frame, after its descriptor's change if there is one, is read to its descriptor. -/
theorem tracks_of_frame (p : Params) (last : Option Descriptor) (x : Bytes) (d : Descriptor) (hx : IsFrame p x d) :
    tracks p last ((if last = some d then [] else [.descriptorChanged d]) ++ [.frameReady x]) = some (some d) := by
  by_cases hl : last = some d
  · simp [hl, tracks, hx]
  · simp [hl, tracks, hx]

/-- The working copy's events, none of them a Fatal, read from `last` to the last descriptor. -/
structure Tracks (last : Option Descriptor) (w : Work) : Prop where
  reads : tracks w.st.params last w.ev = some w.st.lastDescriptor
  noFatal : NoFatal w

/-- R173, R206: the loop starts with at most one dropped span, which is not empty. -/
theorem deliverStart_tracks (chunk : Bytes) (s : State) : Tracks s.lastDescriptor (deliverStart chunk s) where
  reads := by
    rw [deliverStart_ev, deliverStart_lastDescriptor]
    split
    case isTrue h =>
      obtain ⟨-, hne⟩ := h
      rw [tracks, if_neg hne]
      rfl
    case isFalse => rfl
  noFatal := deliverStart_noFatal chunk s

/-- R150, R151, R174: a resync adds a span that is not empty, and a frame follows its descriptor's change. -/
theorem Tracks.again {last : Option Descriptor} {w v : Work} (h : Tracks last w) (e : pass w = .again v) :
    Tracks last v := by
  have hb : w.st.buffer ≠ [] := fun hb => by cases (pass_of_empty w hb).symm.trans e
  refine ⟨?_, h.noFatal.again e⟩
  rcases pass_again w v e with ⟨-, rfl⟩ | ⟨d, hd, hle, -, rfl⟩
  · refine (tracks_append _ last _ w.ev _ h.reads h.noFatal).trans ?_
    rw [tracks, if_neg (align_one_dropped_ne_nil _ hb)]
    rfl
  · rw [emitFrame_eq, List.append_assoc, tracks_append _ last _ w.ev _ h.reads h.noFatal]
    exact tracks_of_frame _ _ _ d (memRead_isFrame _ _ d hd hle)

/-- R206, R224: the one event a pass that stops can add is a Fatal, which is read as the last one. -/
theorem Tracks.stop {last : Option Descriptor} {w v : Work} (h : Tracks last w) (e : pass w = .stop v) :
    tracks v.st.params last v.ev = some v.st.lastDescriptor := by
  rcases pass_stop w v e with ⟨-, rfl⟩ | ⟨kind, rfl⟩ | ⟨d, -, rfl, -⟩
  · exact h.reads
  · exact tracks_append _ last _ w.ev [.fatal kind w.st.buffer] h.reads h.noFatal
  · exact h.reads

/-- Settles O46: `Tracks` holds where the loop starts and is kept by every pass that goes on. -/
theorem eventsTrackTheDescriptor : Obligations.EventsTrackTheDescriptor := by
  rintro chunk s t ev - h hev hall
  obtain ⟨hparams, -⟩ := exec_frame _ s t h
  obtain ⟨w, hw, rfl, rfl⟩ := exec_deliver_events chunk s t ev h hev
  have final : tracks w.st.params s.lastDescriptor w.ev = some w.st.lastDescriptor :=
    extract_induction (Q := fun v => tracks v.st.params s.lastDescriptor v.ev = some v.st.lastDescriptor)
      (fun _ _ => Tracks.again) (fun _ _ => Tracks.stop) _ _ w (deliverStart_tracks chunk s) hw
  rwa [handedOver_eq_ev w (hparams ▸ hall), ← hparams]

end Sys2Proof.Machine

namespace Sys2Proof.Machine

/-! ### The result and the events of the delivery before (43_host_commands.md R203, R207)

Putting them in front of a working copy commutes with the loop, which reads neither. -/

section resumed

variable (old : Response) (prior : List Event)

/-- The working copy with another result and with events before its own. -/
def Work.resumed (w : Work) : Work where
  st := { w.st with response := old }
  ev := prior ++ w.ev

/-- The pass's result with another result field and with events before its own. -/
def PassResult.resumed : PassResult → PassResult
  | .again w => .again (w.resumed old prior)
  | .stop w => .stop (w.resumed old prior)

section readFields

variable (w : Work)

@[simp] theorem resumed_params : (w.resumed old prior).st.params = w.st.params := rfl
@[simp] theorem resumed_resyncEnabled : (w.resumed old prior).st.resyncEnabled = w.st.resyncEnabled := rfl
@[simp] theorem resumed_buffer : (w.resumed old prior).st.buffer = w.st.buffer := rfl

end readFields

theorem raiseFatal_resumed (kind : ErrorKind) (w : Work) :
    raiseFatal kind (w.resumed old prior) = (raiseFatal kind w).resumed old prior := by
  simp [raiseFatal, emit, Work.resumed]

theorem resync_resumed (w : Work) : resync (w.resumed old prior) = (resync w).resumed old prior := by
  simp [resync, setBuffer, emit, Work.resumed]

theorem emitFrame_resumed (d : Descriptor) (fs : Nat) (w : Work) :
    emitFrame d fs (w.resumed old prior) = (emitFrame d fs w).resumed old prior := by
  simp [emitFrame_eq, Work.resumed]

theorem onFailure_resumed (kind : ErrorKind) (w : Work) :
    onFailure kind (w.resumed old prior) = (onFailure kind w).resumed old prior := by
  cases hr : w.st.resyncEnabled <;>
    simp [onFailure, hr, PassResult.resumed, resync_resumed, raiseFatal_resumed]

theorem framePass_resumed (d : Descriptor) (w : Work) :
    framePass d (w.resumed old prior) = (framePass d w).resumed old prior := by
  by_cases hlt : w.st.buffer.length < frameSize w.st.params d
  · simp only [framePass, resumed_params, resumed_buffer, hlt, if_true]
    rfl
  · simp only [framePass, resumed_params, resumed_buffer, hlt, if_false]
    cases guardCheck w.st.params (w.st.buffer.drop (frameSize w.st.params d)) with
    | wait => rfl
    | fail => exact onFailure_resumed old prior _ w
    | pass => exact congrArg PassResult.again (emitFrame_resumed old prior d _ w)

/-- R140, R152: a pass goes by the buffer, the parameters and the resync flag, and only adds events. -/
theorem pass_resumed (w : Work) : pass (w.resumed old prior) = (pass w).resumed old prior := by
  simp only [pass, resumed_params, resumed_buffer]
  cases loopState w.st.buffer with
  | empty => rfl
  | needMore => rfl
  | misaligned => exact congrArg PassResult.stop (raiseFatal_resumed old prior _ w)
  | haveHeader word =>
    cases hd : decodeHeader w.st.params word with
    | invalidHeader => simpa only [hd] using onFailure_resumed old prior _ w
    | ok d => simpa only [hd] using framePass_resumed old prior d w

/-- R152: the two loops run pass by pass alike. -/
theorem extract_resumed (n : Nat) (w r : Work) (h : extract n w = some r) :
    extract n (w.resumed old prior) = some (r.resumed old prior) := by
  induction n generalizing w with
  | zero => cases h
  | succ n ih =>
    rw [extract_succ] at h ⊢
    rw [pass_resumed]
    cases hp : pass w with
    | again v =>
      rw [hp] at h
      exact ih v h
    | stop v =>
      rw [hp] at h
      cases h
      rfl

end resumed

/-! ### A delivery cut in two (43_host_commands.md R207) -/

/-- R207: a loop that has ended without a Fatal and, where the guard can wait, with nothing kept. -/
structure CleanEnd (r : Work) : Prop where
  ready : r.st.fsm = .ready
  drained : r.st.params.guardMode = .sync11 ∨ r.st.buffer = []

/-- R147, R150: with resync off a complete frame ahead of a clean end is emitted: a guard that fails would raise a
Fatal, and one that waits would keep the frame. -/
theorem pass_of_cleanEnd (n : Nat) (w r : Work) (d : Descriptor) (hoff : w.st.resyncEnabled = false)
    (hd : headerOf w.st.params w.st.buffer = some d) (hle : frameSize w.st.params d ≤ w.st.buffer.length)
    (hr : extract (n + 1) w = some r) (clean : CleanEnd r) :
    pass w = .again (emitFrame d (frameSize w.st.params d) w) := by
  rw [extract_succ, pass_of_headerOf w d hd, framePass, if_neg hle.not_gt] at hr
  rw [pass_of_headerOf w d hd, framePass, if_neg hle.not_gt]
  cases hg : guardCheck w.st.params (w.st.buffer.drop (frameSize w.st.params d)) with
  | pass => rfl
  | fail =>
    simp only [hg, onFailure, hoff] at hr
    cases hr
    cases clean.ready
  | wait =>
    simp only [hg] at hr
    cases hr
    obtain ⟨hm, hrest⟩ := guardCheck_eq_wait _ _ hg
    rcases clean.drained with h | h
    · cases h.symm.trans hm
    · rw [show w.st.buffer = [] from h, List.drop_nil] at hrest
      cases hrest

theorem emitFrame_setEst (d : Descriptor) (fs n : Nat) (w : Work) : emitFrame d fs (setEst n w) = emitFrame d fs w := by
  rw [emitFrame_eq, emitFrame_eq]
  rfl

/-- R145, R148, R151: with resync off a frame's pass writes the estimate, so that it is the same from whatever estimate,
or it raises a Fatal. -/
theorem framePass_setEst (d : Descriptor) (n : Nat) (w : Work) (hoff : w.st.resyncEnabled = false) :
    framePass d (setEst n w) = framePass d w ∨ ∃ kind, framePass d w = .stop (raiseFatal kind w) := by
  by_cases hlt : w.st.buffer.length < frameSize w.st.params d
  · left
    simp only [framePass, setEst_params, setEst_buffer, hlt, if_true]
    rfl
  · simp only [framePass, setEst_params, setEst_buffer, hlt, if_false]
    cases guardCheck w.st.params (w.st.buffer.drop (frameSize w.st.params d)) with
    | wait => exact .inl rfl
    | pass => exact .inl (congrArg PassResult.again (emitFrame_setEst d _ n w))
    | fail => exact .inr ⟨.invalidFrameBoundary, by simp [onFailure, hoff]⟩

/-- R145, R148: with resync off an estimate written ahead of a frame's pass does not matter to a loop without a
Fatal. -/
theorem extract_setEst (m n : Nat) (w r : Work) (d : Descriptor) (hoff : w.st.resyncEnabled = false)
    (hd : headerOf w.st.params w.st.buffer = some d) (hr : extract m w = some r) (hready : r.st.fsm = .ready) :
    extract m (setEst n w) = some r := by
  cases m with
  | zero => cases hr
  | succ m =>
    rw [extract_succ, pass_of_headerOf w d hd] at hr
    rw [extract_succ, pass_of_headerOf (setEst n w) d hd]
    rcases framePass_setEst d n w hoff with e | ⟨kind, e⟩
    · rwa [e]
    · rw [e] at hr
      cases hr
      cases hready

/-- The working copy with more bytes behind its buffer. -/
def Work.withMore (c : Bytes) (w : Work) : Work :=
  setBuffer (w.st.buffer ++ c) w

theorem emitFrame_withMore (c : Bytes) (d : Descriptor) (fs : Nat) (w : Work) (h : fs ≤ w.st.buffer.length) :
    emitFrame d fs (w.withMore c) = (emitFrame d fs w).withMore c := by
  simp [emitFrame_eq, Work.withMore, setBuffer, memRead, List.drop_append_of_le_length h,
    List.take_append_of_le_length h]

/-- R207: with resync off, a loop that is to end cleanly over more bytes ends the same when those bytes are added only
after it has ended over the fewer ones. -/
theorem extract_withMore (c : Bytes) (m n : Nat) (w r r' : Work) (hoff : w.st.resyncEnabled = false)
    (hr : extract m w = some r) (hready : r.st.fsm = .ready) (hr' : extract n (w.withMore c) = some r')
    (clean : CleanEnd r') : ∃ k, extract k (r.withMore c) = some r' := by
  induction m generalizing w n with
  | zero => cases hr
  | succ m ih =>
    rw [extract_succ] at hr
    cases hp : pass w with
    | again v =>
      rw [hp] at hr
      rcases pass_again w v hp with ⟨hon, -⟩ | ⟨d, hd, hle, -, rfl⟩
      · cases hoff.symm.trans hon
      · cases n with
        | zero => cases hr'
        | succ n =>
          have hle' : frameSize w.st.params d ≤ (w.withMore c).st.buffer.length :=
            hle.trans (List.sublist_append_left _ _).length_le
          have next : pass (w.withMore c) = .again ((emitFrame d (frameSize w.st.params d) w).withMore c) := by
            rw [← emitFrame_withMore c d _ w hle]
            exact pass_of_cleanEnd n (w.withMore c) r' d hoff (headerOf_append _ _ c d hd) hle' hr' clean
          rw [extract_succ, next] at hr'
          exact ih n _ ((emitFrame_sameSetup d _ w).resyncEnabled.trans hoff) hr hr'
    | stop v =>
      rw [hp] at hr
      cases hr
      rcases pass_stop w r hp with ⟨-, rfl⟩ | ⟨kind, rfl⟩ | ⟨d, hd, rfl, -⟩
      · exact ⟨n, hr'⟩
      · cases hready
      · exact ⟨n, extract_setEst n _ (w.withMore c) r' d hoff (headerOf_append _ _ c d hd) hr' clean.ready⟩

/-- R200: with resync off the loop starts from the appended bytes. -/
theorem deliverStart_of_off (chunk : Bytes) (s : State) (hoff : s.resyncEnabled = false) :
    deliverStart chunk s = appended chunk s :=
  deliverStart_eq_appended chunk s fun hon => by cases hoff.symm.trans hon

/-- R46: a DELIVER that hands over events has fitted. -/
theorem exec_deliver_fits (chunk : Bytes) (s t : State) (ev : List Event) (h : exec (.deliver chunk) s = .next t)
    (hev : t.response = .events ev) : fits s.params (s.buffer.length + chunk.length) = true := by
  rcases execDeliver_next chunk s t h with ⟨-, rfl⟩ | ⟨-, rfl⟩ | ⟨-, -, rfl⟩ | ⟨-, hfits, -⟩
  · cases hev
  · cases hev
  · cases hev
  · exact hfits

/-- R48, R49: a DELIVER that ends in READY keeps no more bytes than it was given. -/
theorem exec_deliver_buffer_le (chunk : Bytes) (s t : State) (ev : List Event) (hf : s.fsm = .ready)
    (h : exec (.deliver chunk) s = .next t) (hev : t.response = .events ev) (hready : t.fsm = .ready) :
    t.buffer.length ≤ s.buffer.length + chunk.length := by
  rw [← List.length_append, ← deliverAccountsForEveryByte chunk s t ev hf h hev (.inr hready), List.length_append]
  exact Nat.le_add_left _ _

/-- Settles O50: the whole delivery's loop goes on where the first part's ended (`extract_withMore`), as the second
part's loop does with the first part's events in front (`extract_resumed`). -/
theorem splitDeliveryGivesTheSameFrames : Obligations.SplitDeliveryGivesTheSameFrames := by
  intro c1 c2 s t1 t ev1 ev hf hoff hend h hready hev h1 hready1 hev1
  have le := exec_deliver_buffer_le c1 s t1 ev1 hf h1 hev1 hready1
  have hfits := exec_deliver_fits _ s t ev h hev
  obtain ⟨hparams, -⟩ := exec_frame _ s t h
  obtain ⟨hparams1, -⟩ := exec_frame _ s t1 h1
  obtain ⟨r, hr, rfl, rfl⟩ := exec_deliver_events c1 s t1 ev1 h1 hev1
  obtain ⟨r', hr', rfl, rfl⟩ := exec_deliver_events (c1 ++ c2) s t ev h hev
  have hoff1 : r.st.resyncEnabled = false :=
    ((deliverStart_sameSetup c1 s).trans (extract_sameSetup _ _ r hr)).resyncEnabled.trans hoff
  have whole : appended (c1 ++ c2) s = (appended c1 s).withMore c2 := by simp [appended, Work.withMore, setBuffer]
  rw [deliverStart_of_off _ s hoff] at hr hr'
  have next : r.withMore c2 = (appended c2 (commit r)).resumed r.st.response r.ev := by
    simp [appended, Work.withMore, setBuffer, Work.resumed, commit]
  rw [whole] at hr'
  have clean : CleanEnd r' := ⟨hready, by rwa [← hparams] at hend⟩
  obtain ⟨k, hk⟩ := extract_withMore c2 _ _ _ r r' hoff hr hready1 hr' clean
  rw [next] at hk
  obtain ⟨r2, hr2⟩ := extract_ends _ (appended c2 (commit r)) (Nat.lt_succ_self _)
  obtain rfl : r' = r2.resumed r.st.response r.ev :=
    extract_unique k _ _ _ _ hk (extract_resumed r.st.response r.ev _ _ r2 hr2)
  have hcap : fits (commit r).params ((commit r).buffer.length + c2.length) = true := by
    rw [hparams1]
    refine fits_mono _ _ _ ?_ hfits
    rw [List.length_append]
    omega
  refine ⟨r2.ev, ?_, ?_⟩
  · exact exec_deliver_appended c2 (commit r) _ r2 hready1 ((fits_iff _ _).1 hcap)
      (fun hon => by cases hoff1.symm.trans hon) hr2 hready
  · rw [handedOver_eq_ev _ (.inr hready), handedOver_eq_ev r (.inr hready1)]
    rfl

end Sys2Proof.Machine

namespace Sys2Proof.Machine

/-! ### A stream of whole frames (43_host_commands.md R207) -/

/-- Bytes at the front of a stream of frames are whole frames and less than the next one. -/
theorem cut_frames (fs : List (Bytes × Descriptor)) (b more : Bytes) (h : b ++ more = fs.flatMap Prod.fst) :
    ∃ fs₁ fs₂ rest, fs = fs₁ ++ fs₂ ∧ b = fs₁.flatMap Prod.fst ++ rest ∧ rest ++ more = fs₂.flatMap Prod.fst ∧
      ∀ f ∈ fs₂.head?, rest.length < f.1.length := by
  induction fs generalizing b with
  | nil => exact ⟨[], [], b, rfl, rfl, h, by simp⟩
  | cons f fs ih =>
    by_cases hlt : b.length < f.1.length
    · exact ⟨[], f :: fs, b, rfl, rfl, h, by simpa using hlt⟩
    · have hf : f.1 <+: b ++ more := h ▸ List.prefix_append _ _
      obtain ⟨b', rfl⟩ : f.1 <+: b := List.prefix_of_prefix_length_le hf (List.prefix_append _ _) (not_lt.1 hlt)
      rw [List.flatMap_cons, List.append_assoc, List.append_cancel_left_eq] at h
      obtain ⟨fs₁, fs₂, rest, rfl, rfl, hrest, hnext⟩ := ih b' h
      exact ⟨f :: fs₁, fs₂, rest, rfl, by simp, hrest, hnext⟩

section front

variable (p : Params) (fs : List (Bytes × Descriptor)) (b more : Bytes) (hfs : ∀ x ∈ fs, IsFrame p x.1 x.2)
  (h : b ++ more = fs.flatMap Prod.fst)

include hfs h

/-- R147: a stream of frames is empty or begins with a sync. -/
theorem stream_head : b ++ more = [] ∨ hasSyncAt (b ++ more) 0 = true := by
  rw [h, ← List.append_nil (fs.flatMap Prod.fst)]
  exact frames_head p fs [] hfs (.inl rfl)

/-- R62, R130: two bytes or more at the front of a stream of frames begin with a sync. -/
theorem hasSyncAt_of_stream (hlen : 2 ≤ b.length) : hasSyncAt b 0 = true := by
  rcases stream_head p fs b more hfs h with e | hs
  · simp [List.append_eq_nil_iff.1 e] at hlen
  · rwa [hasSyncAt_append b more 0 hlen] at hs

/-- R62: one byte at the front of a stream of frames is an 0xFF. -/
theorem eq_ff_of_stream (hlen : b.length = 1) : b = [0xFF] := by
  obtain ⟨y, rfl⟩ := List.length_eq_one_iff.1 hlen
  rcases stream_head p fs [y] more hfs h with e | hs
  · cases e
  · obtain ⟨-, hy, -⟩ := (hasSyncAt_iff _ 0).1 hs
    exact congrArg (fun y => [y]) (Option.some.inj hy)

/-- R171: the front of a stream of frames is empty or begins with a candidate. -/
theorem candidate_of_stream : b = [] ∨ isCandidateAt b 0 = true := by
  rcases b with _ | ⟨y, _ | ⟨z, b⟩⟩
  · exact .inl rfl
  · rw [eq_ff_of_stream p fs [y] more hfs h rfl]
    exact .inr rfl
  · exact .inr (hasSyncAt_candidate _ 0 (hasSyncAt_of_stream p fs _ more hfs h (by simp)))

/-- R145: four bytes or more at the front of a stream, but less than its first frame, show that frame's header. -/
theorem headerOf_of_stream (hlen : 4 ≤ b.length) (hnext : ∀ f ∈ fs.head?, b.length < f.1.length) :
    ∃ d, headerOf p b = some d ∧ b.length < frameSize p d := by
  cases fs with
  | nil => simp [List.append_eq_nil_iff.1 h] at hlen
  | cons f fs =>
    obtain ⟨⟨hd, hsize⟩, -⟩ := List.forall_mem_cons.1 hfs
    have hlt : b.length < f.1.length := hnext f rfl
    have hf : f.1 <+: b ++ more := h ▸ List.prefix_append _ _
    obtain ⟨rest, hb⟩ := List.prefix_of_prefix_length_le (List.prefix_append b more) hf hlt.le
    rw [← hb] at hd
    have := headerOf_take p (b ++ rest) f.2 b.length hd hlen
    exact ⟨f.2, by rwa [List.take_left] at this, hsize ▸ hlt⟩

end front

/-- R132, R145: a buffer at the front of a stream, but less than its first frame, ends the loop; at most the estimate
changes. -/
theorem pass_of_stream (w : Work) (fs : List (Bytes × Descriptor)) (more : Bytes)
    (hfs : ∀ x ∈ fs, IsFrame w.st.params x.1 x.2) (h : w.st.buffer ++ more = fs.flatMap Prod.fst)
    (hnext : ∀ f ∈ fs.head?, w.st.buffer.length < f.1.length) : ∃ est, pass w = .stop (setEst est w) := by
  rcases Nat.lt_or_ge w.st.buffer.length 4 with hlt | hge
  · exact ⟨w.st.estFrameSize, pass_of_short w hlt⟩
  · obtain ⟨d, hd, hlt⟩ := headerOf_of_stream _ fs _ more hfs h hge hnext
    exact ⟨_, pass_of_waiting w d hd (.inl hlt)⟩

/-- R145, R148: what a DELIVER may keep in front of the frames still to come: less than the first of them, or under
WAIT_SHORT that frame and one byte. -/
def Held (p : Params) (b : Bytes) (fs : List (Bytes × Descriptor)) : Prop :=
  ∀ f ∈ fs.head?, b.length < f.1.length ∨ p.guardMode = .waitShort ∧ b.length = f.1.length + 1

/-- R147, R207: under SYNC11 the buffer is not whole frames with a single byte behind them. -/
def NoLoneByte (p : Params) (b : Bytes) (fs : List (Bytes × Descriptor)) : Prop :=
  p.guardMode = .waitShort ∨
    ∀ fs₁ fs₂, fs = fs₁ ++ fs₂ → fs₁ ≠ [] → b.length ≠ (fs₁.flatMap Prod.fst).length + 1

/-- R148: under WAIT_SHORT the loop keeps the last frame with a single 0xFF behind it. -/
theorem extract_of_waiting (w : Work) (fs : List (Bytes × Descriptor)) (x : Bytes) (d : Descriptor)
    (hm : w.st.params.guardMode = .waitShort) (hfs : ∀ x ∈ fs, IsFrame w.st.params x.1 x.2)
    (hx : IsFrame w.st.params x d) (hb : w.st.buffer = fs.flatMap Prod.fst ++ (x ++ [0xFF])) :
    extract (1 + fs.length) w = some (setEst (frameSize w.st.params d) (afterFrames fs (x ++ [0xFF]) w)) := by
  obtain ⟨hd, hsize⟩ := hx
  have hd' := headerOf_append _ x [0xFF] d hd
  have guard : guardCheck w.st.params ((x ++ [0xFF]).drop (frameSize w.st.params d)) = .wait := by
    rw [← hsize, List.drop_left, guardCheck_ff _ hm]
  rw [extract_frames 1 fs _ w hfs hb (.inr (headerOf_hasSyncAt _ _ d hd'))]
  exact extract_of_stop _ _ (pass_of_waiting _ d hd' (.inr guard))

/-- R132, R145, R152: the loop takes the frames that are whole and stops at less than a frame, a single byte behind a
frame left out. -/
theorem extract_of_partial (w : Work) (fs₁ fs₂ : List (Bytes × Descriptor)) (rest more : Bytes)
    (hfs₁ : ∀ x ∈ fs₁, IsFrame w.st.params x.1 x.2) (hfs₂ : ∀ x ∈ fs₂, IsFrame w.st.params x.1 x.2)
    (hb : w.st.buffer = fs₁.flatMap Prod.fst ++ rest) (hrest : rest ++ more = fs₂.flatMap Prod.fst)
    (hnext : ∀ f ∈ fs₂.head?, rest.length < f.1.length) (hone : fs₁ = [] ∨ rest.length ≠ 1) :
    ∃ est, extract (1 + fs₁.length) w = some (setEst est (afterFrames fs₁ rest w)) := by
  have taken : extract (1 + fs₁.length) w = extract 1 (afterFrames fs₁ rest w) := by
    rcases hone with rfl | hone
    · rw [← show w.st.buffer = rest from hb, afterFrames_nil]
      rfl
    · refine extract_frames 1 fs₁ rest w hfs₁ hb ?_
      rcases Nat.lt_or_ge rest.length 2 with hlt | hge
      · exact .inl (List.length_eq_zero_iff.1 (by omega))
      · exact .inr (hasSyncAt_of_stream _ fs₂ rest more hfs₂ hrest hge)
  obtain ⟨est, stop⟩ := pass_of_stream (afterFrames fs₁ rest w) fs₂ more hfs₂ hrest hnext
  exact ⟨est, taken.trans (extract_of_stop _ _ stop)⟩

/-- R147, R152: over the front of a stream of frames the loop takes whole frames and keeps what may be held, unless a
single byte stands behind a whole frame where the guard does not wait. -/
theorem extract_of_stream (w : Work) (fs : List (Bytes × Descriptor)) (more : Bytes)
    (hfs : ∀ x ∈ fs, IsFrame w.st.params x.1 x.2) (h : w.st.buffer ++ more = fs.flatMap Prod.fst)
    (lone : NoLoneByte w.st.params w.st.buffer fs) :
    ∃ fs₁ fs₂ held est n, fs = fs₁ ++ fs₂ ∧ extract n w = some (setEst est (afterFrames fs₁ held w)) ∧
      held ++ more = fs₂.flatMap Prod.fst ∧ Held w.st.params held fs₂ := by
  obtain ⟨fs₁, fs₂, rest, rfl, hb, hrest, hnext⟩ := cut_frames fs _ more h
  obtain ⟨hfs₁, hfs₂⟩ := List.forall_mem_append.1 hfs
  by_cases hpart : fs₁ = [] ∨ rest.length ≠ 1
  · obtain ⟨est, run⟩ := extract_of_partial w fs₁ fs₂ rest more hfs₁ hfs₂ hb hrest hnext hpart
    exact ⟨fs₁, fs₂, rest, est, _, rfl, run, hrest, fun f hf => .inl (hnext f hf)⟩
  · obtain ⟨hne, hone⟩ : fs₁ ≠ [] ∧ rest.length = 1 := by simpa using hpart
    have hm : w.st.params.guardMode = .waitShort := lone.resolve_right fun hlone =>
      hlone fs₁ fs₂ rfl hne (by rw [hb, List.length_append, hone])
    obtain ⟨fs₀, ⟨x, d⟩, rfl⟩ := (List.eq_nil_or_concat' fs₁).resolve_left hne
    obtain ⟨hfs₀, hx⟩ := List.forall_mem_append.1 hfs₁
    obtain rfl := eq_ff_of_stream _ fs₂ rest more hfs₂ hrest hone
    rw [List.flatMap_append, List.flatMap_singleton, List.append_assoc] at hb
    have run := extract_of_waiting w fs₀ x d hm hfs₀ (hx (x, d) (List.mem_singleton_self _)) hb
    refine ⟨fs₀, (x, d) :: fs₂, x ++ [0xFF], _, _, by simp, run, ?stream, ?held⟩
    case stream => rw [List.append_assoc, hrest, List.flatMap_cons]
    case held =>
      rintro _ ⟨⟩
      exact .inr ⟨hm, List.length_append⟩

/-! ### Chunk after chunk (43_host_commands.md R207) -/

/-- R24, R151: the last descriptor emitted after the frames. -/
def lastAfter (last : Option Descriptor) : List (Bytes × Descriptor) → Option Descriptor
  | [] => last
  | f :: fs => lastAfter (some f.2) fs

theorem lastAfter_append (last : Option Descriptor) (fs₁ fs₂ : List (Bytes × Descriptor)) :
    lastAfter last (fs₁ ++ fs₂) = lastAfter (lastAfter last fs₁) fs₂ := by
  induction fs₁ generalizing last with
  | nil => rfl
  | cons f fs₁ ih => exact ih _

theorem afterFrames_lastDescriptor (fs : List (Bytes × Descriptor)) (rest : Bytes) (w : Work) :
    (afterFrames fs rest w).st.lastDescriptor = lastAfter w.st.lastDescriptor fs := by
  rcases List.eq_nil_or_concat' fs with rfl | ⟨fs, f, rfl⟩
  · rfl
  · simp [afterFrames, lastAfter_append, lastAfter]

/-- R155: the events of frames are the events of the first ones and then those of the others. -/
theorem frameEvents_append (last : Option Descriptor) (fs₁ fs₂ : List (Bytes × Descriptor)) :
    frameEvents last (fs₁ ++ fs₂) = frameEvents last fs₁ ++ frameEvents (lastAfter last fs₁) fs₂ := by
  induction fs₁ generalizing last with
  | nil => rfl
  | cons f fs₁ ih => simp [frameEvents, lastAfter, ih]

theorem frameEnds_append (start : Nat) (fs₁ fs₂ : List (Bytes × Descriptor)) :
    frameEnds start (fs₁ ++ fs₂) =
      frameEnds start fs₁ ++ frameEnds (start + (fs₁.flatMap Prod.fst).length) fs₂ := by
  induction fs₁ generalizing start with
  | nil => rfl
  | cons f fs₁ ih => simp [frameEnds, ih, Nat.add_assoc]

/-- The position right after the first frames of a stream is one of its frame ends. -/
theorem length_mem_frameEnds (start : Nat) (fs₁ fs₂ : List (Bytes × Descriptor)) (hne : fs₁ ≠ []) :
    start + (fs₁.flatMap Prod.fst).length ∈ frameEnds start (fs₁ ++ fs₂) := by
  obtain ⟨fs₀, f, rfl⟩ := (List.eq_nil_or_concat' fs₁).resolve_left hne
  simp [frameEnds_append, frameEnds, Nat.add_assoc]

/-- What a DELIVER over the front of a stream leaves: READY, the events of the frames `fs₁` it has emitted, and in front
of the stream's other bytes a buffer that may be held ahead of the frames `fs₂`. -/
structure Emitted (s t : State) (more : Bytes) (fs₁ fs₂ : List (Bytes × Descriptor)) : Prop where
  ready : t.fsm = .ready
  params : t.params = s.params
  response : t.response = .events (frameEvents s.lastDescriptor fs₁)
  lastDescriptor : t.lastDescriptor = lastAfter s.lastDescriptor fs₁
  stream : t.buffer ++ more = fs₂.flatMap Prod.fst
  held : Held t.params t.buffer fs₂

/-- R199, R207: nothing stands before the first frame's sync, and the loop takes what is whole. -/
theorem exec_deliver_of_stream (chunk : Bytes) (s : State) (fs : List (Bytes × Descriptor)) (more : Bytes)
    (hf : s.fsm = .ready) (hcap : s.params.bufCap = none) (hfs : ∀ x ∈ fs, IsFrame s.params x.1 x.2)
    (h : s.buffer ++ chunk ++ more = fs.flatMap Prod.fst) (lone : NoLoneByte s.params (s.buffer ++ chunk) fs) :
    ∃ fs₁ fs₂ t, fs = fs₁ ++ fs₂ ∧ exec (.deliver chunk) s = .next t ∧ Emitted s t more fs₁ fs₂ := by
  obtain ⟨fs₁, fs₂, held, est, n, rfl, run, hheld, hH⟩ := extract_of_stream (appended chunk s) fs more hfs h lone
  refine ⟨fs₁, fs₂, _, rfl, exec_deliver_appended chunk s n _ hf (by simp [hcap])
    (fun _ => candidate_of_stream _ _ _ more hfs h) run hf, hf, rfl, rfl, ?_, hheld, hH⟩
  exact afterFrames_lastDescriptor fs₁ held (appended chunk s)

/-- A delivery that ends READY hands its events over ahead of the others'. -/
theorem deliverAll_cons (c : Bytes) (rest : List Bytes) (s t u : State) (ev more : List Event)
    (h : exec (.deliver c) s = .next t) (hready : t.fsm = .ready) (hev : t.response = .events ev)
    (hrest : deliverAll rest t = some (u, more)) : deliverAll (c :: rest) s = some (u, ev ++ more) := by
  simp [deliverAll, h, hready, hev, hrest]

/-- R138: frames have bytes, more than one. -/
theorem one_lt_length_of_isFrame (p : Params) (x : Bytes) (d : Descriptor) (h : IsFrame p x d) : 1 < x.length :=
  Nat.lt_of_lt_of_le (by decide) (headerOf_length p x d h.1)

/-- A buffer that may be held ahead of frames is not all of them, unless there are none. -/
theorem Held.eq_nil {p : Params} {b : Bytes} {fs : List (Bytes × Descriptor)} (h : Held p b fs)
    (hfs : ∀ x ∈ fs, IsFrame p x.1 x.2) (hb : b = fs.flatMap Prod.fst) : fs = [] := by
  cases fs with
  | nil => rfl
  | cons f fs =>
    rw [List.flatMap_cons] at hb
    rcases h f rfl with hlt | ⟨-, hlen⟩
    · rw [hb, List.length_append] at hlt
      omega
    · cases fs with
      | nil => simp [hb] at hlen
      | cons g fs =>
        have := one_lt_length_of_isFrame p g.1 g.2 (hfs g (by simp))
        rw [hb, List.flatMap_cons, List.length_append, List.length_append] at hlen
        omega

/-- R207: a delivery that keeps the proviso leaves no single byte behind a frame, since a buffer that is held under
SYNC11 ends before the first frame does. -/
theorem Held.noLoneByte {p : Params} {b : Bytes} {fs : List (Bytes × Descriptor)} {ends : List Nat} {base : Nat}
    {c : Bytes} {rest : List Bytes} (h : Held p b fs) (hends : frameEnds base fs ⊆ ends)
    (hkeeps : p.guardMode = .waitShort ∨ keepsProviso ends (base + b.length) (c :: rest) = true) :
    NoLoneByte p (b ++ c) fs := by
  refine or_iff_not_imp_left.2 fun hm fs₁ fs₂ hsplit hne => ?_
  subst hsplit
  obtain ⟨hlast, -⟩ := (keepsProviso_cons ..).1 (hkeeps.resolve_left hm)
  have after : b.length < (fs₁.flatMap Prod.fst).length := by
    obtain ⟨f, fs₀, rfl⟩ := List.exists_cons_of_ne_nil hne
    have hlt : b.length < f.1.length := (h f rfl).resolve_right fun ⟨hw, _⟩ => hm hw
    rw [List.flatMap_cons, List.length_append]
    omega
  have := hlast _ (hends (length_mem_frameEnds base fs₁ fs₂ hne)) (by omega)
  rw [List.length_append]
  omega

/-- R207: chunk after chunk, with a buffer held ahead of the frames that are still to come. `base` is the stream
position of the first of them, and `ends` has the ends of them all. -/
theorem deliverAll_of_stream (ends : List Nat) (chunks : List Bytes) (s : State) (base : Nat)
    (fs : List (Bytes × Descriptor)) (hf : s.fsm = .ready) (hcap : s.params.bufCap = none)
    (hfs : ∀ x ∈ fs, IsFrame s.params x.1 x.2) (hheld : Held s.params s.buffer fs)
    (h : s.buffer ++ chunks.flatten = fs.flatMap Prod.fst) (hends : frameEnds base fs ⊆ ends)
    (hkeeps : s.params.guardMode = .waitShort ∨ keepsProviso ends (base + s.buffer.length) chunks = true) :
    ∃ t, deliverAll chunks s = some (t, frameEvents s.lastDescriptor fs) ∧ t.fsm = .ready ∧ t.buffer = [] := by
  induction chunks generalizing s base fs with
  | nil =>
    rw [List.flatten_nil, List.append_nil] at h
    obtain rfl := hheld.eq_nil hfs h
    exact ⟨s, rfl, hf, h⟩
  | cons c chunks ih =>
    rw [List.flatten_cons, ← List.append_assoc] at h
    obtain ⟨fs₁, fs₂, t, rfl, run, em⟩ := exec_deliver_of_stream c s fs _ hf hcap hfs h
      (hheld.noLoneByte hends hkeeps)
    have pos : base + (fs₁.flatMap Prod.fst).length + t.buffer.length = base + s.buffer.length + c.length := by
      have := congrArg List.length h
      rw [List.flatMap_append, ← em.stream] at this
      simp only [List.length_append] at this
      omega
    obtain ⟨u, hu, hready, hempty⟩ := ih t (base + (fs₁.flatMap Prod.fst).length) fs₂ em.ready
      (em.params ▸ hcap) (em.params ▸ (List.forall_mem_append.1 hfs).2) em.held em.stream
      (fun e he => hends (by rw [frameEnds_append]; exact List.mem_append_right _ he))
      (by
        rw [em.params, pos]
        exact hkeeps.imp_right fun hk => ((keepsProviso_cons ..).1 hk).2)
    refine ⟨u, ?_, hready, hempty⟩
    rw [frameEvents_append, ← em.lastDescriptor]
    exact deliverAll_cons c chunks s t u _ _ run em.ready em.response hu

/-- Settles O51: an empty buffer is held ahead of any frames, and each delivery of `deliverAll_of_stream` emits the
frames it has whole. -/
theorem chunkedStreamGivesItsFrames : Obligations.ChunkedStreamGivesItsFrames := by
  intro chunks s fs hf hb hcap hkeeps hfs hstream
  have held : Held s.params s.buffer fs := fun f hmem => by
    rw [hb]
    exact .inl (Nat.lt_of_succ_lt (one_lt_length_of_isFrame _ _ _ (hfs f (List.mem_of_mem_head? hmem))))
  exact deliverAll_of_stream (frameEnds 0 fs) chunks s 0 fs hf hcap hfs held (by rw [hb]; exact hstream)
    (List.Subset.refl _) (by rw [hb]; exact hkeeps)

end Sys2Proof.Machine

namespace Sys2Proof.Machine

/-- Settles O33: of the two ways to step, an empty queue leaves the idle one. -/
theorem idleBlockKeepsItsState : Obligations.IdleBlockKeepsItsState := by
  intro s hq
  rcases step_cases s with ⟨-, e⟩ | ⟨x, rest, hcons, -⟩
  · exact e
  · cases hq.symm.trans hcons

/-! ### A pass with a cause of Fatal (60_exceptions.md R221 to R223) -/

/-- R142: four bytes or more without a sync end the pass in a Fatal, in either resync setting. -/
theorem pass_of_misaligned (w : Work) (hlen : 4 ≤ w.st.buffer.length) (hs : hasSyncAt w.st.buffer 0 = false) :
    pass w = .stop (raiseFatal .misaligned w) := by
  rcases pass_cases w with ⟨hb, -⟩ | ⟨-, hlt, -⟩ | ⟨-, -, e⟩ | ⟨-, hsync, -⟩ | ⟨d, hd, -⟩
  · simp [hb] at hlen
  · omega
  · exact e
  · cases hs.symm.trans hsync
  · cases hs.symm.trans (headerOf_hasSyncAt _ _ d hd)

/-- R143, R144: a header that does not decode makes the pass fail. -/
theorem pass_of_undecodable (w : Work) (hlen : 4 ≤ w.st.buffer.length) (hs : hasSyncAt w.st.buffer 0 = true)
    (hnone : headerOf w.st.params w.st.buffer = none) : pass w = onFailure .invalidHeader w := by
  rcases pass_cases w with ⟨hb, -⟩ | ⟨-, hlt, -⟩ | ⟨-, hno, -⟩ | ⟨-, -, -, e⟩ | ⟨d, hd, -⟩
  · simp [hb] at hlen
  · omega
  · cases hs.symm.trans hno
  · exact e
  · cases hnone.symm.trans hd

/-- R147, R149: a complete frame whose guard fails makes the pass fail. -/
theorem pass_of_guard_fail (w : Work) (d : Descriptor) (hd : headerOf w.st.params w.st.buffer = some d)
    (hle : frameSize w.st.params d ≤ w.st.buffer.length)
    (hg : guardCheck w.st.params (w.st.buffer.drop (frameSize w.st.params d)) = .fail) :
    pass w = onFailure .invalidFrameBoundary w := by
  rw [pass_of_headerOf w d hd]
  simp [framePass, hle.not_gt, hg]

/-- R221 to R223: with resync off each cause ends the pass in its Fatal. -/
theorem pass_of_fatalCause (kind : ErrorKind) (w : Work) (hoff : w.st.resyncEnabled = false)
    (h : FatalCause w.st.params kind w.st.buffer) : pass w = .stop (raiseFatal kind w) := by
  have fails (kind : ErrorKind) : onFailure kind w = .stop (raiseFatal kind w) := by simp [onFailure, hoff]
  cases kind with
  | misaligned =>
    obtain ⟨hlen, hs⟩ := h
    exact pass_of_misaligned w hlen hs
  | invalidHeader =>
    obtain ⟨hlen, hs, hnone⟩ := h
    exact (pass_of_undecodable w hlen hs hnone).trans (fails _)
  | invalidFrameBoundary =>
    obtain ⟨d, hd, hle, hg⟩ := h
    exact (pass_of_guard_fail w d hd hle hg).trans (fails _)

/-- R225: after a Fatal the events before it are handed over or not, and the Fatal is. -/
theorem handedOver_raiseFatal (kind : ErrorKind) (w : Work) :
    handedOver (raiseFatal kind w) =
      (if w.st.params.fatalKeepsPrior then w.ev else []) ++ [.fatal kind w.st.buffer] := by
  cases h : w.st.params.fatalKeepsPrior <;> simp [handedOver, faulted, h]

/-- Settles O40: nothing is dropped with resync off, and the first pass raises the Fatal, before which there is no
event. -/
theorem fatalOnTheFirstPass : Obligations.FatalOnTheFirstPass := by
  intro chunk s kind hf hoff hcap hcause
  have first : extract 1 (deliverStart chunk s) = some (raiseFatal kind (appended chunk s)) := by
    rw [deliverStart_of_off chunk s hoff]
    exact extract_of_stop _ _ (pass_of_fatalCause kind (appended chunk s) hoff hcause)
  refine (execDeliver_ready chunk s _ hf ((fits_iff _ _).2 hcap) (extract_length_succ _ _ _ first)).trans ?_
  rw [commit, handedOver_raiseFatal, show (appended chunk s).ev = [] from rfl, ite_self]
  rfl

/-! ### How the loop of a DELIVER ends (60_exceptions.md R224) -/

/-- R221 to R223: a pass that stops leaves `fsm` and the events as they are, or its Fatal has its cause. -/
theorem pass_stop_cause (w v : Work) (h : pass w = .stop v) :
    (v.st.fsm = w.st.fsm ∧ v.ev = w.ev) ∨
      ∃ kind, v = raiseFatal kind w ∧ FatalCause w.st.params kind w.st.buffer := by
  rcases pass_cases w with ⟨-, e⟩ | ⟨-, -, e⟩ | ⟨hlen, hs, e⟩ | ⟨hlen, hs, hnone, e⟩ |
    ⟨d, hd, ⟨-, e⟩ | ⟨-, -, e⟩ | ⟨hle, hg, e⟩ | ⟨-, -, e⟩⟩ <;> rw [e] at h
  · cases h
    exact .inl ⟨rfl, rfl⟩
  · cases h
    exact .inl ⟨rfl, rfl⟩
  · cases h
    exact .inr ⟨.misaligned, rfl, hlen, hs⟩
  · exact .inr ⟨.invalidHeader, onFailure_stop _ w v h, hlen, hs, hnone⟩
  · cases h
    exact .inl ⟨rfl, rfl⟩
  · cases h
    exact .inl ⟨rfl, rfl⟩
  · exact .inr ⟨.invalidFrameBoundary, onFailure_stop _ w v h, d, hd, hle, hg⟩
  · cases h

/-- R149, R150: a pass that goes on has not written `fsm`. -/
theorem pass_again_fsm (w v : Work) (h : pass w = .again v) : v.st.fsm = w.st.fsm := by
  rcases pass_again w v h with ⟨-, rfl⟩ | ⟨d, -, -, -, rfl⟩
  · rfl
  · rw [emitFrame_eq]

/-- The two ways the loop ends: in READY with no Fatal, or by the one Fatal, raised last and with its cause in the
buffer. -/
inductive LoopEnd : Work → Prop
  | ready {r : Work} (hready : r.st.fsm = .ready) (noFatal : NoFatal r) : LoopEnd r
  | fatal (kind : ErrorKind) (w : Work) (noFatal : NoFatal w)
      (cause : FatalCause w.st.params kind w.st.buffer) : LoopEnd (raiseFatal kind w)

theorem LoopEnd.of_pass_stop {w v : Work} (hready : w.st.fsm = .ready) (noFatal : NoFatal w) (h : pass w = .stop v) :
    LoopEnd v := by
  rcases pass_stop_cause w v h with ⟨hfsm, hev⟩ | ⟨kind, rfl, cause⟩
  · exact .ready (hfsm.trans hready) (by rwa [NoFatal, hev])
  · exact .fatal kind w noFatal cause

/-- R152, R224: up to its last pass the loop is in READY and has raised no Fatal. -/
theorem extract_loopEnd (n : Nat) (w r : Work) (hready : w.st.fsm = .ready) (noFatal : NoFatal w)
    (h : extract n w = some r) : LoopEnd r :=
  extract_induction (P := fun v => v.st.fsm = .ready ∧ NoFatal v)
    (fun v v' ⟨hv, nf⟩ e => ⟨(pass_again_fsm v v' e).trans hv, nf.again e⟩)
    (fun _ _ ⟨hv, nf⟩ e => .of_pass_stop hv nf e) n w r ⟨hready, noFatal⟩ h

theorem deliverStart_loopEnd (chunk : Bytes) (s : State) (n : Nat) (r : Work) (hf : s.fsm = .ready)
    (h : extract n (deliverStart chunk s) = some r) : LoopEnd r :=
  extract_loopEnd n _ r ((deliverStart_fsm chunk s).trans hf) (deliverStart_noFatal chunk s) h

/-- R226: a DELIVER that ends in FAULTED has resync off, since with resync on it completes. -/
theorem resyncEnabled_of_faulted (chunk : Bytes) (s t : State) (ev : List Event) (hf : s.fsm = .ready)
    (h : exec (.deliver chunk) s = .next t) (hev : t.response = .events ev) (hfault : t.fsm = .faulted) :
    s.resyncEnabled = false := by
  refine Bool.eq_false_iff.2 fun hon => ?_
  obtain ⟨t', -, h', hready, -⟩ :=
    deliverWithResyncCompletes chunk s hf hon ((fits_iff _ _).1 (exec_deliver_fits chunk s t ev h hev))
  obtain rfl : t = t' := Host.Outcome.next.inj (h.symm.trans h')
  cases hready.symm.trans hfault

/-- Settles O42: the two ways the loop ends. -/
theorem fatalEntry : Obligations.FatalEntry := by
  intro chunk s t ev hf h hev
  have off := resyncEnabled_of_faulted chunk s t ev hf h hev
  obtain ⟨hparams, -⟩ := exec_frame _ s t h
  obtain ⟨r, hr, rfl, rfl⟩ := exec_deliver_events chunk s t ev h hev
  cases deliverStart_loopEnd chunk s _ r hf hr with
  | ready hready noFatal =>
    refine ⟨fun hfault => ?_, fun _ => ?_, .inr hready⟩
    · cases hready.symm.trans hfault
    · rwa [handedOver_eq_ev r (.inr hready)]
  | fatal kind w noFatal cause =>
    refine ⟨fun hfault => ⟨off hfault, kind, _, handedOver_raiseFatal kind w, ?_, hparams ▸ cause⟩, ?_, .inl rfl⟩
    · split
      · exact noFatal
      · exact List.forall_mem_nil _
    · rintro ⟨⟩

end Sys2Proof.Machine

namespace Sys2Proof

/-- The parameters with another P_FATAL_KEEPS_PRIOR. -/
def Params.withKeepsPrior (keep : Bool) (p : Params) : Params :=
  { p with fatalKeepsPrior := keep }

end Sys2Proof

namespace Sys2Proof.Machine

/-! ### The loop under another P_FATAL_KEEPS_PRIOR (60_exceptions.md R225)

Writing the parameter commutes with the loop, which does not read it; `handedOver` is its one reader. -/

/-- The pass's result with its working copy changed. -/
def PassResult.map (f : Work → Work) : PassResult → PassResult
  | .again w => .again (f w)
  | .stop w => .stop (f w)

/-- R152: a change of the working copy that commutes with a pass commutes with the loop. -/
theorem extract_map (f : Work → Work) (hpass : ∀ w, pass (f w) = (pass w).map f) (n : Nat) (w : Work) :
    extract n (f w) = (extract n w).map f := by
  induction n generalizing w with
  | zero => rfl
  | succ n ih =>
    rw [extract_succ, extract_succ, hpass]
    cases pass w with
    | again v => exact ih v
    | stop v => rfl

section keepsPrior

variable (keep : Bool)

/-- The state with another P_FATAL_KEEPS_PRIOR. -/
def State.withKeepsPrior (s : State) : State :=
  { s with params := s.params.withKeepsPrior keep }

/-- The working copy with another P_FATAL_KEEPS_PRIOR. -/
def Work.withKeepsPrior (w : Work) : Work :=
  { w with st := w.st.withKeepsPrior keep }

section readFields

variable (w : Work)

@[simp] theorem withKeepsPrior_params : (w.withKeepsPrior keep).st.params = w.st.params.withKeepsPrior keep := rfl
@[simp] theorem withKeepsPrior_resyncEnabled :
    (w.withKeepsPrior keep).st.resyncEnabled = w.st.resyncEnabled := rfl
@[simp] theorem withKeepsPrior_buffer : (w.withKeepsPrior keep).st.buffer = w.st.buffer := rfl

end readFields

@[simp] theorem decodeHeader_withKeepsPrior (p : Params) (word : Word) :
    decodeHeader (p.withKeepsPrior keep) word = decodeHeader p word := rfl

@[simp] theorem frameSize_withKeepsPrior (p : Params) (d : Descriptor) :
    frameSize (p.withKeepsPrior keep) d = frameSize p d := rfl

@[simp] theorem guardCheck_withKeepsPrior (p : Params) (rest : Bytes) :
    guardCheck (p.withKeepsPrior keep) rest = guardCheck p rest := rfl

theorem deliverStart_withKeepsPrior (chunk : Bytes) (s : State) :
    deliverStart chunk (s.withKeepsPrior keep) = (deliverStart chunk s).withKeepsPrior keep := by
  have st : (deliverStart chunk (s.withKeepsPrior keep)).st = (deliverStart chunk s).st.withKeepsPrior keep := by
    rw [deliverStart_frame, deliverStart_frame]
    rfl
  have ev : (deliverStart chunk (s.withKeepsPrior keep)).ev = (deliverStart chunk s).ev := by
    rw [deliverStart_ev, deliverStart_ev]
    rfl
  exact congrArg₂ Work.mk st ev

theorem onFailure_withKeepsPrior (kind : ErrorKind) (w : Work) :
    onFailure kind (w.withKeepsPrior keep) = (onFailure kind w).map (Work.withKeepsPrior keep) := by
  cases hr : w.st.resyncEnabled <;> simp only [onFailure, withKeepsPrior_resyncEnabled, hr] <;> rfl

theorem emitFrame_withKeepsPrior (d : Descriptor) (fs : Nat) (w : Work) :
    emitFrame d fs (w.withKeepsPrior keep) = (emitFrame d fs w).withKeepsPrior keep := by
  rw [emitFrame_eq, emitFrame_eq]
  rfl

theorem framePass_withKeepsPrior (d : Descriptor) (w : Work) :
    framePass d (w.withKeepsPrior keep) = (framePass d w).map (Work.withKeepsPrior keep) := by
  by_cases hlt : w.st.buffer.length < frameSize w.st.params d
  · simp only [framePass, withKeepsPrior_params, withKeepsPrior_buffer, frameSize_withKeepsPrior, hlt, if_true]
    rfl
  · simp only [framePass, withKeepsPrior_params, withKeepsPrior_buffer, frameSize_withKeepsPrior,
      guardCheck_withKeepsPrior, hlt, if_false]
    cases guardCheck w.st.params (w.st.buffer.drop (frameSize w.st.params d)) with
    | wait => rfl
    | fail => exact onFailure_withKeepsPrior keep _ w
    | pass => exact congrArg PassResult.again (emitFrame_withKeepsPrior keep d _ w)

/-- R152, R225: a pass reads the other parameters only. -/
theorem pass_withKeepsPrior (w : Work) :
    pass (w.withKeepsPrior keep) = (pass w).map (Work.withKeepsPrior keep) := by
  simp only [pass, withKeepsPrior_params, withKeepsPrior_buffer, decodeHeader_withKeepsPrior]
  cases loopState w.st.buffer with
  | empty => rfl
  | needMore => rfl
  | misaligned => rfl
  | haveHeader word =>
    cases hd : decodeHeader w.st.params word with
    | invalidHeader => simpa only [hd] using onFailure_withKeepsPrior keep _ w
    | ok d => simpa only [hd] using framePass_withKeepsPrior keep d w

/-- R199, R225: a DELIVER under another P_FATAL_KEEPS_PRIOR commits the same working copy, with that parameter. -/
theorem exec_deliver_withKeepsPrior (chunk : Bytes) (s : State) (r : Work) (hf : s.fsm = .ready)
    (hfits : fits s.params (s.buffer.length + chunk.length) = true)
    (hr : extract ((deliverStart chunk s).st.buffer.length + 1) (deliverStart chunk s) = some r) :
    exec (.deliver chunk) (s.withKeepsPrior keep) = .next (commit (r.withKeepsPrior keep)) := by
  refine execDeliver_ready chunk (s.withKeepsPrior keep) _ hf hfits ?_
  rw [deliverStart_withKeepsPrior, extract_map _ (pass_withKeepsPrior keep), withKeepsPrior_buffer, hr]
  rfl

end keepsPrior

/-- Settles O47: both deliveries commit the same working copy, which hands over all its events from READY, and after a
Fatal at least that (`handedOver_raiseFatal`). -/
theorem fatalKeepsPriorOnlyFiltersEvents : Obligations.FatalKeepsPriorOnlyFiltersEvents := by
  intro chunk s t ev hf hkeep h hev
  have hfits := exec_deliver_fits chunk s t ev h hev
  obtain ⟨hparams, -⟩ := exec_frame _ s t h
  obtain ⟨r, hr, rfl, rfl⟩ := exec_deliver_events chunk s t ev h hev
  refine ⟨handedOver (r.withKeepsPrior false), ?same, fun hready => ?ready, fun hfault => ?faulted⟩
  case same =>
    refine (exec_deliver_withKeepsPrior false chunk s r hf hfits hr).trans ?_
    rw [← hparams]
    rfl
  case ready =>
    rw [handedOver_eq_ev r (.inr hready), handedOver_eq_ev (r.withKeepsPrior false) (.inr hready)]
    rfl
  case faulted =>
    cases deliverStart_loopEnd chunk s _ r hf hr with
    | ready hready => cases hready.symm.trans hfault
    | fatal kind w =>
      refine ⟨kind, handedOver_raiseFatal kind (w.withKeepsPrior false), ?_⟩
      rw [handedOver_raiseFatal]
      exact List.getLast?_concat ..

end Sys2Proof.Machine

namespace Sys2Proof.Machine

/-! ### One byte after a frame (70_reset_and_hazards.md R262) -/

/-- R147: under SYNC11 a single byte fails the guard, a 0xFF too. -/
theorem guardCheck_singleton_sync11 (p : Params) (b : Byte) (hm : p.guardMode = .sync11) :
    guardCheck p [b] = .fail := by
  simp [guardCheck, hm]

/-- R147, R223: under SYNC11 a complete frame with one byte behind it is a cause of `InvalidFrameBoundary`. -/
theorem fatalCause_of_one_byte_after_frame (p : Params) (x : Bytes) (d : Descriptor) (b : Byte)
    (hx : IsFrame p x d) (hm : p.guardMode = .sync11) : FatalCause p .invalidFrameBoundary (x ++ [b]) := by
  obtain ⟨hd, hsize⟩ := hx
  refine ⟨d, headerOf_append p x [b] d hd, ?complete, ?guard⟩
  case complete => simp [← hsize]
  case guard => rw [← hsize, List.drop_left, guardCheck_singleton_sync11 p b hm]

/-- Settles O41: under SYNC11 the byte is a cause of Fatal on the first pass; under WAIT_SHORT the frame's sync keeps the
align from dropping, and the loop stops at the frame and the 0xFF with no frame before them. -/
theorem oneByteAfterAFrame : Obligations.OneByteAfterAFrame := by
  intro chunk s x d b hf hcap hx hb
  refine ⟨fun hm hoff => ?sync11, fun hm hff => ?waitShort⟩
  case sync11 =>
    have cause := fatalCause_of_one_byte_after_frame s.params x d b hx hm
    rw [← hb] at cause ⊢
    exact fatalOnTheFirstPass chunk s _ hf hoff hcap cause
  case waitShort =>
    subst hff
    have sync : hasSyncAt (s.buffer ++ chunk) 0 = true := by
      rw [hb]
      exact headerOf_hasSyncAt s.params _ d (headerOf_append s.params x [0xFF] d hx.1)
    exact exec_deliver_appended chunk s _ _ hf hcap (fun _ => .inr (hasSyncAt_candidate _ 0 sync))
      (extract_of_waiting (appended chunk s) [] x d hm (by simp) hx hb) hf

/-! ### Power-on (70_reset_and_hazards.md R250) -/

/-- R250: at power-on nothing is buffered or emitted and the block is not READY; the estimate is the default. -/
theorem inv_reset : Inv State.reset where
  ready hready := by cases hready
  descriptor _ hd := by cases hd
  capacity := rfl
  estimate := .inl rfl
  memory := reset_memory_wf

/-- Settles O52: the reset record field by field, and `inv_reset`. -/
theorem powerOnState : Obligations.PowerOnState :=
  ⟨rfl, rfl, rfl, rfl, inv_reset⟩

end Sys2Proof.Machine
